-- ==== Sys2Proof/Word.lean ====
section
/-! DEFINITION. The widths of the machine: byte, word, grid, sprite address and register number.
spec/00_scope.md section 4 (parameters), section 6 (notation); spec/10_state.md R7, R12, R14. -/

namespace Sys2Proof

/-- One memory cell, or one general register (10_state.md R12, R15). -/
abbrev Byte := BitVec 8

/-- The index register, the program counter, or an instruction word (10_state.md R14, R16; 30_encoding.md R34). -/
abbrev Word := BitVec 16

/-- A sprite row's address: a 17-bit unsigned sum (20_memory.md R22). -/
abbrev SpriteAddr := BitVec 17

/-- One row of a grid: bit x is the pixel in column x, 1 for set and 0 for unset (10_state.md R7; log 24). -/
abbrev GridRow := BitVec 64

/-- A whole grid, 32 rows of 64 pixels: the pixel `LIVE[y][x]` is bit x of row y (10_state.md R7, R8). Read it through
`Machine.pixel`. -/
abbrev Grid := Vector GridRow 32

/-- The number of a general register, 0 to 15 (10_state.md R12). -/
abbrev RegNum := Fin 16

/-- Memory holds the cells 0 to 4095 (10_state.md R15). -/
abbrev memSize : Nat := 4096

/-- Columns and rows of a grid (00_scope.md section 4: `W`, `H`; R6: no mode changes them). -/
abbrev gridWidth : Nat := 64

abbrev gridHeight : Nat := 32

/-- A sprite is one byte wide (00_scope.md section 4: `SW`). -/
abbrev spriteWidth : Nat := 8

end Sys2Proof
end

