-- ==== Sys2Proof/Config.lean ====
section
/-! DEFINITION. What the implementation fixes (the program's load offset, the font's size) and the free values of what
the spec leaves open, and the call stack's depth. A free value is an opaque constant: nothing can be proved about which value it is.
spec/20_memory.md R28; spec/93_implementation_defined.md U8, U9, U12, U13, U17; log 1, 2, 17, 30, 32. -/

namespace Sys2Proof

/-- Where a program is loaded, and where the program counter starts (20_memory.md R28; 10_state.md R16). -/
def Config.loadOffset : Nat := 512

/-- The font is a 16 × 5-byte table at the lowest addresses (20_memory.md R28). -/
def Config.fontSize : Nat := 80

/-- Free value: the font table's byte at an address, the same at every load (U13: the spec gives no bytes; log 2). -/
opaque Config.fontByte : Nat → Byte

/-- Free value: what a cell that neither the font nor the program covers holds, for the given number of program loads
so far and address (U12: any value, fixed at launch; never assume 0; log 2). -/
opaque Config.launchByte : Nat → Nat → Byte

/-- The host's call stack has 16 levels (93_implementation_defined.md U8; log 23). -/
def Config.stackLevels : Nat := 16

/-- What one of the host's own instructions does with the call stack: nothing, a call that takes a level, or a return that
gives one back (log 30). -/
inductive StackUse where
  | keep
  | push
  | pop
  deriving DecidableEq, Repr, Inhabited

/-- What one of the host's own instructions may leave behind: any value in the host's machine state, any use of the call
stack, any stores to memory. None of it is the block's (00_scope.md section 3: "they do not touch the block's state"; log 1). -/
structure HostChange where
  v : Vector Byte 16
  index : Word
  pc : Word
  stackUse : StackUse
  stack : Vector Word 16
  delay : Byte
  sound : Byte
  writes : List (Nat × Byte)
  deriving DecidableEq, Repr, Inhabited

/-- Free value: what the host's instruction does to the host's state, one for each draw of `State.draws`
(the other instructions are outside the spec: 00_scope.md section 3; log 1). -/
opaque Config.hostChange : Nat → HostChange

/-- Free value: whether the host knows an instruction word that is not the block's. The spec leaves the host's opcode table
out, so nothing is known of which words they are (00_scope.md section 3; 30_encoding.md R40; log 32). -/
opaque Config.hostKnows : Word → Bool

/-- Free value: the word the host fetches at an odd address or beyond memory, and its program counter after that
(U17, 91_not_in_source.md N12: assume none of it; log 17). -/
opaque Config.strayFetch : Nat → Word × Word

end Sys2Proof
end

