-- ==== Sys2Proof/Machine/State.lean ====
section
/-! DEFINITION. The machine's state as plain data, the requests its agents may make, the reasons a step can stop, and the
state after reset. spec/10_state.md R7 to R19; spec/00_scope.md section 5; spec/60_exceptions.md R62, R67 to R70. -/

namespace Sys2Proof.Machine

/-- The cells a load or a store has written, as (address, byte) with addresses strictly rising and below 4096. A cell
that is not listed has no written value: it reads as a free byte (`State.unwritten`; log 2). -/
abbrev Memory := List Host.Cell

/-- The canonical form: strictly rising addresses, all of them cells that exist (10_state.md R15). -/
abbrev Memory.wf (m : Memory) : Prop :=
  m.Pairwise (fun a b => a.1 < b.1) ∧ ∀ c ∈ m, c.1 < memSize

/-- An event on the diagnostic port DG (60_exceptions.md R62). -/
inductive Diag where
  /-- A sprite row was read at an address outside memory. -/
  | oobRead (addr : SpriteAddr)
  deriving DecidableEq, Repr

/-- A raw machine-state field that the register inspector may edit (60_exceptions.md R68). It has no access to the
block's own state. -/
inductive Edit where
  | reg (r : RegNum) (b : Byte)
  | index (w : Word)
  | pc (w : Word)
  | sp (n : Nat)
  | stack (level : Fin 16) (w : Word)
  | delay (b : Byte)
  | sound (b : Byte)
  | cell (addr : Nat) (b : Byte)
  deriving DecidableEq, Repr

/-- What an agent asks for: one entry of the total order of 20_memory.md R30. -/
inductive Request where
  /-- The scheduler calls the host's `step()` (00_scope.md R4). -/
  | step
  /-- The host hands an instruction word to port E (30_encoding.md R34, R40; log 28). -/
  | issue (w : Word)
  /-- The reader gives a command on port P (30_encoding.md R38). -/
  | present (c : BitVec 1)
  /-- The owner loads a program, which resets the machine: port RST (70_reset_and_hazards.md R72). -/
  | load (program : List Byte)
  /-- The owner shuts the interpreter down (60_exceptions.md R69). -/
  | shutdown
  /-- The owner adds a line to the breakpoint set, or removes one (60_exceptions.md R68). -/
  | setBreakpoint (line : Nat)
  | clearBreakpoint (line : Nat)
  /-- The register inspector edits a field (60_exceptions.md R68). -/
  | edit (e : Edit)
  /-- The input-delivery context reports a key (60_exceptions.md R67). -/
  | setKey (key : Nat) (pressed : Bool)
  /-- One interval of the timers' wall-clock cadence goes by (60_exceptions.md R70). -/
  | clock
  deriving DecidableEq, Repr

/-- Everything the spec gives the machine, and the model's own counters and agenda (INVENTORY.md lists each field). -/
structure State where
  /-- LIVE, the grid the execution side draws into (10_state.md R7). -/
  live : Grid
  /-- PRES, the presentation grid (10_state.md R8). -/
  pres : Grid
  /-- DIRTY, a redraw is pending (10_state.md R9). -/
  dirty : Bool
  /-- V[0] to V[15] of the host; V[15] is VF (10_state.md R12, R13). -/
  v : Vector Byte 16
  /-- I of the host (10_state.md R14). -/
  index : Word
  /-- The host's memory (10_state.md R15). -/
  mem : Memory
  /-- The host's program counter (10_state.md R16). -/
  pc : Word
  /-- The host's stack pointer and call stack (10_state.md R19; log 23). -/
  sp : Nat
  stack : Vector Word 16
  /-- The host's delay and sound timers (60_exceptions.md R70). -/
  delay : Byte
  sound : Byte
  /-- The pressed keys, rising, no repeats (10_state.md R19; log 23). -/
  keys : List Nat
  /-- The host's "loaded" flag (00_scope.md R4). -/
  loaded : Bool
  /-- The host's terminal flag, set by `shutdown()` (60_exceptions.md R69). -/
  terminal : Bool
  /-- The host's "suspended" flag with the line it is suspended at (60_exceptions.md R68). -/
  suspended : Option Nat
  /-- The breakpoint set, line indices, rising, no repeats (60_exceptions.md R68). -/
  breakpoints : List Nat
  /-- Wall-clock intervals gone by since the last timer decay (60_exceptions.md R70; log 19). -/
  elapsed : Nat
  /-- The events port DG has emitted, oldest first (60_exceptions.md R62; log 14). -/
  diag : List Diag
  /-- The results port P has returned to the reader's SNAPs, oldest first (42_presentation.md R58, R59; log 13). -/
  snaps : List Grid
  /-- What the agents ask for next, in the total order of 20_memory.md R30; when it is empty the scheduler calls
  `step()` (log 15). -/
  agenda : List Request
  /-- How many programs have been loaded: selects the free bytes of this load (log 25). -/
  launches : Nat
  /-- How many free values the host's own behaviour has drawn (log 25). -/
  draws : Nat
  deriving DecidableEq, Repr

/-- Why the machine has no next state. The block itself never faults (60_exceptions.md R61): the first two reasons are moves
that the spec says its environment does not make, the last two are the host's call stack going beyond its levels. -/
inductive Fault where
  /-- Raised by a `Request.edit` while the host is not suspended: "a model gives the environment no such move"
  (70_reset_and_hazards.md R78; log 20). Safe: the model stops. -/
  | editWhileRunning
  /-- Raised by a `Request.load` after shutdown: no reset arrives then (60_exceptions.md R69; log 21). Safe: the model
  stops. -/
  | loadAfterShutdown
  /-- Raised by a host instruction that calls with all 16 levels of the call stack taken, or that returns from beyond them:
  "`fault` in a whole-machine model; never a value" (93_implementation_defined.md U8; 60_exceptions.md R63; log 30).
  Safe: the model stops. -/
  | callStackOverflow
  /-- Raised by a host instruction that returns with no level of the call stack taken (93_implementation_defined.md U8;
  60_exceptions.md R63; log 30). Safe: the model stops. -/
  | callStackUnderflow
  deriving DecidableEq, Repr

/-- Why the machine answers that it has no meaning. -/
inductive Refusal where
  /-- Raised by an arm of `exec` whose instruction has no meaning yet; no arm is refused. Safe. -/
  | notModelled (mnemonic : String)
  deriving DecidableEq, Repr

/-- The instance just created, nothing loaded (70_reset_and_hazards.md R72 (b)); the block's three fields are those of
10_state.md R18. The host's fields are those of a program load, a choice the logs name (log 3, 4). -/
def State.reset : State where
  live := Vector.replicate 32 0
  pres := Vector.replicate 32 0
  dirty := false
  v := Vector.replicate 16 0
  index := 0
  mem := []
  pc := 512#16
  sp := 0
  stack := Vector.replicate 16 0
  delay := 0
  sound := 0
  keys := []
  loaded := false
  terminal := false
  suspended := none
  breakpoints := []
  elapsed := 0
  diag := []
  snaps := []
  agenda := []
  launches := 0
  draws := 0

end Sys2Proof.Machine
end

