-- ==== Sys2Proof/Machine/Flags.lean ====
section
/-! DEFINITION. The machine's one flag register, VF, and the value a collision gives it.
spec/10_state.md R13; spec/41_draw.md R49, R50. -/

namespace Sys2Proof.Machine

/-- VF is register number 15 (10_state.md R13). -/
def flagReg : RegNum := 15

/-- All 8 bits of VF: 0x01 for a collision, 0x00 for none (41_draw.md R50). -/
def flagByte (collision : Bool) : Byte := if collision then 0x01#8 else 0x00#8

end Sys2Proof.Machine
end

