-- ==== Sys2Proof/Machine/Operands.lean ====
section
/-! DEFINITION. DRW's operands: the address of a sprite row, the pixel a sprite bit lands on, the order of the bits in a
row. spec/20_memory.md R22, R24, R25; spec/41_draw.md R46, R47; log 5, 6, 7. -/

namespace Sys2Proof.Machine

/-- `ea(row) = I + row`, a 17-bit sum that wraps neither at 4096 nor at 65536 (20_memory.md R22). -/
def spriteAddr (base : Word) (row : Nat) : SpriteAddr :=
  base.setWidth 17 + BitVec.ofNat 17 row

/-- XWRAP, the modulus of the column (00_scope.md section 4). -/
def xWrap : Nat := 64

/-- YWRAP, the modulus of the row (00_scope.md section 4; 90_conflicts.md C1: 32, not 64). -/
def yWrap : Nat := 32

/-- The column of the sprite's bit `i` (41_draw.md R47). -/
def pixelColumn (x0 : Byte) (i : Nat) : Nat := (x0.toNat + i) % xWrap

/-- The row of the sprite's row `row` (41_draw.md R47; 20_memory.md R24). -/
def pixelRow (y0 : Byte) (row : Nat) : Nat := (y0.toNat + row) % yWrap

/-- The sprite bit at horizontal offset `i`: bit 7 is the leftmost (20_memory.md R25). -/
def spriteBit (b : Byte) (i : Nat) : Bool := b.getLsbD (7 - i)

end Sys2Proof.Machine
end

