-- ==== Sys2Proof/Machine/Ops.lean ====
section
/-! DEFINITION. The named operations over grids, memory, registers and ports that every meaning is written with. The
block raises no exception (spec/60_exceptions.md R61, R66), so no exception entry and no return stands here; what the spec
has in their place is the diagnostic event. spec/10_state.md; spec/20_memory.md; spec/70_reset_and_hazards.md R73. -/

namespace Sys2Proof.Machine

/-! Grids -/

/-- `ZERO_GRID` (00_scope.md section 6). -/
def zeroGrid : Grid := Vector.replicate 32 0

/-- Row `y` of a grid. -/
def gridRow (g : Grid) (y : Nat) : GridRow := g.getD y 0

/-- The pixel at column `x` and row `y`, x below 64 and y below 32 (10_state.md R7, R10); outside the grid, unset. -/
def pixel (g : Grid) (x y : Nat) : Bool := (gridRow g y).getLsbD x

/-- Inverts one pixel: exclusive-or with a sprite bit of 1 (41_draw.md R48). -/
def flipPixel (g : Grid) (x y : Nat) : Grid := g.setIfInBounds y (gridRow g y ^^^ BitVec.twoPow 64 x)

/-- The SNAP result as a vector of 2048 bits: row-major, row 0 first, x = 0 lowest in each row (42_presentation.md
R59). -/
def snapVector (g : Grid) : List Bool :=
  g.toList.flatMap fun r => (List.range gridWidth).map r.getLsbD

/-- DRW's working values that change: the live grid as drawn so far, and the collision accumulator (10_state.md R17). -/
structure Canvas where
  grid : Grid
  hit : Bool
  deriving DecidableEq, Repr

/-- One sprite bit: a 0 leaves everything as it was; a 1 inverts the pixel and records a set pixel as a collision
(41_draw.md R48, R49). -/
def plot (x y : Nat) (bit : Bool) (k : Canvas) : Canvas :=
  if bit then ⟨flipPixel k.grid x y, k.hit || pixel k.grid x y⟩ else k

/-- One sprite row, bits 7 down to 0, onto grid row `y` (41_draw.md R45, inner loop). -/
def drawRow (x0 : Byte) (y : Nat) (b : Byte) (k : Canvas) : Canvas :=
  (List.range spriteWidth).foldl (fun k i => plot (pixelColumn x0 i) y (spriteBit b i) k) k

/-- Sprite rows in the order of the list, each with its own byte (41_draw.md R45, outer loop). -/
def drawRows (x0 y0 : Byte) (rowByte : Nat → Byte) (rows : List Nat) (k : Canvas) : Canvas :=
  rows.foldl (fun k row => drawRow x0 (pixelRow y0 row) (rowByte row) k) k

/-! Memory -/

/-- The byte written at an address, if one was. -/
def Memory.lookup : Memory → Nat → Option Byte
  | [], _ => none
  | (a, b) :: m, addr => if a = addr then some b else Memory.lookup m addr

/-- Lists a byte at an address, in the canonical order, in place of an earlier one. -/
def Memory.insert : Memory → Nat → Byte → Memory
  | [], addr, b => [(addr, b)]
  | (a, c) :: m, addr, b =>
    if addr < a then (addr, b) :: (a, c) :: m
    else if addr = a then (addr, b) :: m
    else (a, c) :: Memory.insert m addr b

/-- A write outside the cells that exist is "silently dropped" (20_memory.md R21). -/
def Memory.store (m : Memory) (addr : Nat) (b : Byte) : Memory :=
  if addr < memSize then m.insert addr b else m

/-- Several writes, in order. -/
def Memory.storeAll (m : Memory) (ws : List (Nat × Byte)) : Memory :=
  ws.foldl (fun m w => m.store w.1 w.2) m

/-- Bytes at consecutive addresses. -/
def Memory.storeBytes : Memory → Nat → List Byte → Memory
  | m, _, [] => m
  | m, addr, b :: bs => Memory.storeBytes (m.store addr b) (addr + 1) bs

/-- What a cell reads as that nothing has written since the last load: the font's byte, or the free byte of this load
(20_memory.md R28; 93_implementation_defined.md U12, U13; log 2). -/
def State.unwritten (s : State) (addr : Nat) : Byte :=
  if s.loaded && decide (addr < Config.fontSize) then Config.fontByte addr else Config.launchByte s.launches addr

/-- `mem[addr]` for an address of a cell that exists (20_memory.md R21). -/
def State.cell (s : State) (addr : Nat) : Byte := (s.mem.lookup addr).getD (s.unwritten addr)

/-- The byte of `MemRead(addr, 1)`: a cell that exists gives its byte, any other address 0 (20_memory.md R21). -/
def State.memRead (s : State) (addr : SpriteAddr) : Byte :=
  if addr.toNat ≤ 4095 then s.cell addr.toNat else 0x00#8

/-- The diagnostic of `MemRead(addr, 1)`: one for an address outside memory (20_memory.md R21; 60_exceptions.md R62). -/
def readDiag (addr : SpriteAddr) : List Diag :=
  if addr.toNat ≤ 4095 then [] else [.oobRead addr]

/-- The event's code (60_exceptions.md R62, table). -/
def Diag.code : Diag → Nat
  | .oobRead _ => 1

/-- Emits events on port DG, after the ones before them (60_exceptions.md R62, R65). -/
def State.emit (s : State) (ds : List Diag) : State := { s with diag := s.diag ++ ds }

/-! Registers -/

/-- `V[r]` (00_scope.md section 6); none is hard-wired (10_state.md R12). -/
def State.reg (s : State) (r : RegNum) : Byte := s.v[r]

/-- `V[r] <- b`, all 8 bits (00_scope.md section 6). -/
def State.setReg (s : State) (r : RegNum) (b : Byte) : State := { s with v := s.v.set r b }

/-! The block -/

/-- The one transition CLS and reset share: both grids to zero, no redraw pending (40_clear.md R43;
70_reset_and_hazards.md R73). -/
def State.clearGrids (s : State) : State := { s with live := zeroGrid, pres := zeroGrid, dirty := false }

/-- LIVE takes a drawn grid and a redraw is pending (41_draw.md R45, R51). -/
def State.setLive (s : State) (g : Grid) : State := { s with live := g, dirty := true }

/-- The byte of sprite row `row` (41_draw.md R45, R55). -/
def State.rowByte (s : State) (row : Nat) : Byte := s.memRead (spriteAddr s.index row)

/-- The diagnostics of an N-row sprite's reads, in row order (41_draw.md R55; 60_exceptions.md R65). -/
def State.rowDiags (s : State) (n : Nat) : List Diag :=
  (List.range n).flatMap fun row => readDiag (spriteAddr s.index row)

/-- The grid and the accumulator at the end of a DRW's loops, every operand taken from the state at its start
(41_draw.md R45, R46). -/
def State.drawn (s : State) (x y : RegNum) (n : Nat) : Canvas :=
  drawRows (s.reg x) (s.reg y) s.rowByte (List.range n) ⟨s.live, false⟩

/-- The whole-grid copy of COMMIT (42_presentation.md R57). -/
def State.copyGrid (s : State) : State := { s with pres := s.live, dirty := false }

/-- Port P returns a copy of PRES to the reader (42_presentation.md R58). -/
def State.returnSnap (s : State) : State := { s with snaps := s.snaps ++ [s.pres] }

end Sys2Proof.Machine
end

