-- ==== Sys2Proof/Machine/Clear.lean ====
section
/-! DEFINITION. The meaning of CLS. spec/40_clear.md R43, R44. -/

namespace Sys2Proof.Machine

/-- CLS clears both grids and the pending redraw, and nothing else: no register, no flag (40_clear.md R43). -/
def execCls (s : State) : Host.Outcome State Fault Refusal := .next s.clearGrids

end Sys2Proof.Machine
end

