-- ==== Sys2Proof/Machine/Draw.lean ====
section
/-! DEFINITION. The meaning of DRW. spec/41_draw.md R45 to R56. -/

namespace Sys2Proof.Machine

/-- DRW X, Y, N: operands latched at the start, the rows drawn into LIVE, then VF written and DIRTY set. It never
faults, whatever the address, the height or the registers (41_draw.md R45). -/
def execDrw (x y : RegNum) (n : Nat) (s : State) : Host.Outcome State Fault Refusal :=
  .next (((s.emit (s.rowDiags n)).setLive (s.drawn x y n).grid).setReg flagReg (flagByte (s.drawn x y n).hit))

end Sys2Proof.Machine
end

