-- ==== Sys2Proof/Machine/Present.lean ====
section
/-! DEFINITION. The meanings of the reader's two operations, COMMIT and SNAP. spec/42_presentation.md R57 to R59. -/

namespace Sys2Proof.Machine

/-- COMMIT: test, copy and clear in one transition; without a pending redraw, nothing (42_presentation.md R57). -/
def execCommit (s : State) : Host.Outcome State Fault Refusal :=
  .next (if s.dirty then s.copyGrid else s)

/-- SNAP: the reader gets PRES; no state of the machine changes (42_presentation.md R58). -/
def execSnap (s : State) : Host.Outcome State Fault Refusal := .next s.returnSnap

end Sys2Proof.Machine
end

