-- ==== Sys2Proof/Syntax.lean ====
section
/-! DEFINITION. The four operations of the block, one constructor for each row of spec/opcode_table.json.
spec/00_scope.md R2; spec/30_encoding.md R36 to R39. -/

namespace Sys2Proof

/-- "SXC-FB has exactly four operations" (00_scope.md R2). -/
inductive Instr where
  /-- CLS, `clear()`: issued on port E, no operand (40_clear.md R43). -/
  | cls
  /-- DRW Vx, Vy, n, `draw(xReg, yReg, height)`: issued on port E. `x` and `y` are register numbers and `n` is the
  number of sprite rows, an unsigned immediate (30_encoding.md R39; 41_draw.md R45). -/
  | drw (x y : RegNum) (n : Nat)
  /-- SNAP, `presentationSnapshot()`: issued on port P (42_presentation.md R58). -/
  | snap
  /-- COMMIT, `presentationUpdate()`: issued on port P (42_presentation.md R57). -/
  | commit
  deriving DecidableEq, Repr

/-- What one transaction on an operation port carries: an instruction word on port E, or the one-bit command on port P
(00_scope.md section 5; 30_encoding.md R34, R38). -/
inductive PortWord where
  | e (w : Word)
  | p (c : BitVec 1)
  deriving DecidableEq, Repr

end Sys2Proof
end

