-- ==== Sys2Proof/WellFormed.lean ====
section
/-! DEFINITION. Which terms of `Instr` the encoding can express. Register numbers are bounded by their type; the sprite
height is a 4-bit field. spec/30_encoding.md R36, R39; log 26. -/

namespace Sys2Proof

/-- The sprite height is 0 to 15 (30_encoding.md R39); the other operations have no operand to check. -/
def Instr.wellFormed : Instr → Bool
  | .cls => true
  | .drw _ _ n => decide (n ≤ 15)
  | .snap => true
  | .commit => true

abbrev WellFormed (i : Instr) : Prop := i.wellFormed = true

end Sys2Proof
end

