-- ==== Sys2Proof/Decode.lean ====
section
/-! DEFINITION. The decoder of both operation ports, total on every word and rejecting by name, the encoder written from
the same table, the byte order of an instruction word, and the two textual forms of the spec.
spec/30_encoding.md R34 to R42; spec/20_memory.md R23. -/

namespace Sys2Proof

/-- Why the decoder answers no instruction. -/
inductive Reject where
  /-- Fewer than the two bytes an instruction word takes (30_encoding.md R34). -/
  | truncated
  /-- The word is neither CLS nor DRW, so it is not the block's (30_encoding.md R40). -/
  | notTheBlocks (w : Word)
  deriving DecidableEq, Repr

/-- Bits 15:12, the major group; 11:8, X; 7:4, Y; 3:0, N (30_encoding.md R35). -/
def fieldG (w : Word) : BitVec 4 := w.extractLsb' 12 4

def fieldX (w : Word) : BitVec 4 := w.extractLsb' 8 4

def fieldY (w : Word) : BitVec 4 := w.extractLsb' 4 4

def fieldN (w : Word) : BitVec 4 := w.extractLsb' 0 4

/-- The match and mask of the two rows of port E (30_encoding.md R36, R37 and the summary of its section 2). -/
def clsMatch : Word := 0x00E0#16

def clsMask : Word := 0xFFFF#16

def drwMatch : Word := 0xD000#16

def drwMask : Word := 0xF000#16

/-- The instruction a word on port E stands for (30_encoding.md R36, R37, R40). -/
def decodeE (w : Word) : Except Reject Instr :=
  if w &&& clsMask = clsMatch then .ok .cls
  else if w &&& drwMask = drwMatch then .ok (.drw (fieldX w).toFin (fieldY w).toFin (fieldN w).toNat)
  else .error (.notTheBlocks w)

/-- The operation a command on port P stands for: 0 is SNAP, 1 is COMMIT (30_encoding.md R38). -/
def decodeP (c : BitVec 1) : Instr :=
  if c = 1#1 then .commit else .snap

/-- Either port. -/
def decode : PortWord → Except Reject Instr
  | .e w => decodeE w
  | .p c => .ok (decodeP c)

/-- Two consecutive bytes, the first the more significant (20_memory.md R23). -/
def wordOfBytes (b0 b1 : Byte) : Word := b0 ++ b1

def highByte (w : Word) : Byte := w.extractLsb' 8 8

def lowByte (w : Word) : Byte := w.extractLsb' 0 8

/-- The next instruction of a byte sequence on port E, with the bytes after it (30_encoding.md R34; 20_memory.md R23).
A sequence of fewer than two bytes is rejected as truncated (log 31). -/
def decodeBytes : List Byte → Except Reject (Instr × List Byte)
  | b0 :: b1 :: rest =>
    match decodeE (wordOfBytes b0 b1) with
    | .ok i => .ok (i, rest)
    | .error r => .error r
  | _ => .error .truncated

/-- The pattern `1101 xxxx yyyy nnnn` with its fields filled in (30_encoding.md R36). -/
def drwWord (x y : RegNum) (n : Nat) : Word :=
  0xD#4 ++ (BitVec.ofFin x : BitVec 4) ++ (BitVec.ofFin y : BitVec 4) ++ BitVec.ofNat 4 n

/-- The word or command that stands for an instruction, on the port that takes it (30_encoding.md R36 to R38). -/
def encode : Instr → PortWord
  | .cls => .e clsMatch
  | .drw x y n => .e (drwWord x y n)
  | .snap => .p 0#1
  | .commit => .p 1#1

/-- The bytes of an instruction word as memory holds them, lowest address first (20_memory.md R23). -/
def bytesOfWord (w : Word) : List Byte := [highByte w, lowByte w]

/-- The decoder on an instruction given as a number, its bits numbered as spec/opcode_table.json numbers them. A row of
port E has 16 bits: they are laid out as two bytes, the high one first. A row of port P has one bit, so it comes in one
whole byte of which the port carries bit 0 alone (30_encoding.md R38; log 27). -/
def decodeTableWord (nbits w : Nat) : Option Instr :=
  if nbits ≤ 8 then some (decodeP (BitVec.ofNat 1 w))
  else
    match decodeBytes (bytesOfWord (BitVec.ofNat 16 w)) with
    | .ok (i, _) => some i
    | .error _ => none

/-- One hexadecimal digit, in upper case (30_encoding.md R41, R42). -/
def hexDigit (d : BitVec 4) : Char :=
  if d.toNat < 10 then Char.ofNat (48 + d.toNat) else Char.ofNat (55 + d.toNat)

/-- The spec's way of writing an operation down (30_encoding.md R41): `n` is written in decimal. -/
def Instr.asm : Instr → String
  | .cls => "CLS"
  | .drw x y n =>
    "DRW V" ++ (hexDigit (BitVec.ofFin x)).toString ++ ", V" ++ (hexDigit (BitVec.ofFin y)).toString ++ ", " ++ toString n
  | .snap => "SNAP"
  | .commit => "COMMIT"

/-- The host's listing line of the word at a line index: decimal index, colon, four upper-case hexadecimal digits
(30_encoding.md R42). `none` where the word begins with a zero digit, whose padding the spec does not settle
(91_not_in_source.md N19; log 29). -/
def listingLine (line : Nat) (w : Word) : Option String :=
  if fieldG w = 0#4 then none
  else some (toString line ++ ": " ++ String.ofList [hexDigit (fieldG w), hexDigit (fieldX w), hexDigit (fieldY w), hexDigit (fieldN w)])

end Sys2Proof
end

