-- ==== Sys2Proof/Machine/Interpreter.lean ====
section
/-! DEFINITION. The host core as far as the block's interface needs it: the program load, `step()` up to the dispatch,
breakpoints, timer decay, the fetch, the inspector's edits, and the free change of the host's own instructions.
spec/00_scope.md R4; spec/20_memory.md R23, R28; spec/60_exceptions.md R68 to R70; spec/70_reset_and_hazards.md R72. -/

namespace Sys2Proof.Machine

/-- A set of numbers as a list, rising and without repeats: put one in. -/
def insertSorted : Nat → List Nat → List Nat
  | n, [] => [n]
  | n, m :: ms => if n < m then n :: m :: ms else if n = m then m :: ms else m :: insertSorted n ms

/-- Take one out. -/
def removeFrom (n : Nat) (ms : List Nat) : List Nat := ms.filter (· != n)

/-- Program load: the block is reset as by CLS, every piece of the host's mutable state the lifecycle rule lists is reset,
and memory holds the font and the program at 512 (70_reset_and_hazards.md R72, R73; 20_memory.md R28; log 22). -/
def State.loadProgram (s : State) (program : List Byte) : State :=
  { s.clearGrids with
    v := Vector.replicate 16 0
    index := 0
    mem := Memory.storeBytes [] Config.loadOffset program
    pc := BitVec.ofNat 16 Config.loadOffset
    sp := 0
    stack := Vector.replicate 16 0
    delay := 0
    sound := 0
    loaded := true
    suspended := none
    elapsed := 0
    launches := s.launches + 1 }

/-- The line index of an address: its offset from the program's start, divided by 2 (30_encoding.md R42); an address
below the program has none (log 18). -/
def lineOf (pc : Word) : Option Nat :=
  if Config.loadOffset ≤ pc.toNat then some ((pc.toNat - Config.loadOffset) / 2) else none

/-- The current line, if it is a breakpoint (60_exceptions.md R68). -/
def State.atBreakpoint (s : State) : Option Nat :=
  match lineOf s.pc with
  | some l => if s.breakpoints.contains l then some l else none
  | none => none

/-- The breakpoint check found the line: the suspended flag takes it, nothing else changes (60_exceptions.md R68). -/
def State.suspendAt (s : State) (line : Nat) : State := { s with suspended := some line }

/-- Words come to port E only from a host that is loaded, not shut down and not suspended (60_exceptions.md R68, R69;
70_reset_and_hazards.md R72; log 28). -/
def State.drivesPortE (s : State) : Bool := s.loaded && !s.terminal && s.suspended.isNone

/-- A timer after so many intervals: one decrement each, never below zero (60_exceptions.md R70; log 19). -/
def decay (t : Byte) (intervals : Nat) : Byte := BitVec.ofNat 8 (t.toNat - intervals)

/-- The step goes on past the breakpoint check: not suspended any more, both timers decayed (00_scope.md R4). -/
def State.resume (s : State) : State :=
  { s with suspended := none, delay := decay s.delay s.elapsed, sound := decay s.sound s.elapsed, elapsed := 0 }

/-- The spec describes a fetch at an even address with both bytes in memory, and no other (10_state.md R16;
91_not_in_source.md N12; log 17). -/
def fetchable (pc : Word) : Bool := decide (pc.toNat % 2 = 0) && decide (pc.toNat + 1 ≤ 4095)

/-- The word at the program counter, big-endian; where the spec describes no fetch, a free word (20_memory.md R23). -/
def State.fetchWord (s : State) : Word :=
  if fetchable s.pc then wordOfBytes (s.cell s.pc.toNat) (s.cell (s.pc.toNat + 1)) else (Config.strayFetch s.draws).1

/-- The program counter moves past the word before the dispatch (00_scope.md R4; 10_state.md R16). -/
def State.advance (s : State) : State :=
  if fetchable s.pc then { s with pc := s.pc + 2#16 }
  else { s with pc := (Config.strayFetch s.draws).2, draws := s.draws + 1 }

/-- The call stack beyond its levels: a call when all are taken, a return when none is, and a return from a depth that only
an edit can have set (60_exceptions.md R63; 93_implementation_defined.md U8; log 30). -/
def stackFault (sp : Nat) : StackUse → Option Fault
  | .keep => none
  | .push => if Config.stackLevels ≤ sp then some .callStackOverflow else none
  | .pop =>
    if sp = 0 then some .callStackUnderflow
    else if Config.stackLevels < sp then some .callStackOverflow
    else none

/-- The stack pointer, which counts the levels taken, after a use of the stack that stays within them (log 30). -/
def stackDepth (sp : Nat) : StackUse → Nat
  | .keep => sp
  | .push => sp + 1
  | .pop => sp - 1

/-- One of the host's own instructions: any change of the host's machine state and memory, none of the block's
(00_scope.md section 3; 30_encoding.md R40; log 1). It draws one free value. -/
def State.applyHost (s : State) (c : HostChange) : State :=
  { s with
    v := c.v
    index := c.index
    pc := c.pc
    sp := stackDepth s.sp c.stackUse
    stack := c.stack
    delay := c.delay
    sound := c.sound
    mem := s.mem.storeAll c.writes
    draws := s.draws + 1 }

/-- The host's instruction that makes the change `c`: a fault, never a value, where its call or return leaves the call
stack's levels (60_exceptions.md R63; 93_implementation_defined.md U8; log 30). -/
def State.runHost (s : State) (c : HostChange) : Host.Outcome State Fault Refusal :=
  match stackFault s.sp c.stackUse with
  | some f => .fault f
  | none => .next (s.applyHost c)

/-- The host's instruction, whichever it is: its change is free (log 1). -/
def State.hostInstruction (s : State) : Host.Outcome State Fault Refusal := s.runHost (Config.hostChange s.draws)

/-- A fetched word that is not the block's: one of the host's own instructions if the host knows it; one it does not know is
a no-op, with the program counter already past it, and does not halt (30_encoding.md R40; 60_exceptions.md R63;
93_implementation_defined.md U9; log 32). -/
def State.hostWord (s : State) (w : Word) : Host.Outcome State Fault Refusal :=
  if Config.hostKnows w then s.hostInstruction else .next s

/-- The inspector writes one raw machine-state field (60_exceptions.md R68). -/
def State.applyEdit (s : State) : Edit → State
  | .reg r b => s.setReg r b
  | .index w => { s with index := w }
  | .pc w => { s with pc := w }
  | .sp n => { s with sp := n }
  | .stack level w => { s with stack := s.stack.set level w }
  | .delay b => { s with delay := b }
  | .sound b => { s with sound := b }
  | .cell addr b => { s with mem := s.mem.store addr b }

/-- The input-delivery context reports a key down or up (60_exceptions.md R67). -/
def State.setKey (s : State) (key : Nat) (pressed : Bool) : State :=
  { s with keys := if pressed then insertSorted key s.keys else removeFrom key s.keys }

/-- The state in which the next step fetches `w`: the bytes at the program counter, a loaded and running host, no
breakpoint at that line, and the scheduler's turn (log 3). -/
def State.placeWord (s : State) (w : Word) : State :=
  let pc := if fetchable s.pc then s.pc else BitVec.ofNat 16 Config.loadOffset
  { s with
    pc := pc
    mem := s.mem.storeBytes pc.toNat (bytesOfWord w)
    loaded := true
    terminal := false
    breakpoints := match lineOf pc with
      | some l => removeFrom l s.breakpoints
      | none => s.breakpoints
    agenda := .step :: s.agenda }

/-- The state in which the next step serves the reader's command `c`. -/
def State.placeCommand (s : State) (c : BitVec 1) : State := { s with agenda := .present c :: s.agenda }

end Sys2Proof.Machine
end

