-- ==== Sys2Proof/Machine/Agents.lean ====
section
/-! DEFINITION. What each agent's request does: the two operation ports, the host's `step()`, the owner, the inspector,
the keys and the clock. spec/00_scope.md R3 to R5, section 5; spec/60_exceptions.md R67 to R70. -/

namespace Sys2Proof.Machine

/-- Port E: the block performs the operation of a word that is its own and ignores any other (30_encoding.md R40). -/
def portE (w : Word) (s : State) : Host.Outcome State Fault Refusal :=
  match decodeE w with
  | .ok i => exec i s
  | .error _ => .next s

/-- Port P: every command is one of the reader's two operations (30_encoding.md R38). -/
def portP (c : BitVec 1) (s : State) : Host.Outcome State Fault Refusal := exec (decodeP c) s

/-- The host hands a word to port E. A host that is suspended, shut down or not loaded hands none over: nothing reaches
the block and nothing changes (60_exceptions.md R68, R69; 70_reset_and_hazards.md R72; log 28). -/
def hostIssue (w : Word) (s : State) : Host.Outcome State Fault Refusal :=
  if s.drivesPortE then portE w s else .next s

/-- Dispatch of a fetched word: the block's words go to port E; any other is the host's, which knows it or not
(00_scope.md R4; 30_encoding.md R40; log 1, 32). -/
def dispatchWord (w : Word) (s : State) : Host.Outcome State Fault Refusal :=
  match decodeE w with
  | .ok i => exec i s
  | .error _ => s.hostWord w

/-- The host's `step()`: nothing if not loaded or after shutdown, then breakpoint check, timer decay, fetch, dispatch
(00_scope.md R4; 60_exceptions.md R68, R69; 90_conflicts.md C2). -/
def interpreterStep (s : State) : Host.Outcome State Fault Refusal :=
  if s.loaded && !s.terminal then
    match s.atBreakpoint with
    | some line => .next (s.suspendAt line)
    | none => dispatchWord s.resume.fetchWord s.resume.advance
  else .next s

/-- The owner's load: a reset, at any time before shutdown (70_reset_and_hazards.md R72; 60_exceptions.md R69). -/
def ownerLoad (program : List Byte) (s : State) : Host.Outcome State Fault Refusal :=
  if s.terminal then .fault .loadAfterShutdown else .next (s.loadProgram program)

/-- The inspector's edit: a move it has only while the host is suspended (70_reset_and_hazards.md R78). -/
def inspectorEdit (e : Edit) (s : State) : Host.Outcome State Fault Refusal :=
  if s.suspended.isSome then .next (s.applyEdit e) else .fault .editWhileRunning

/-- One request of the total order, served whole (20_memory.md R30). The breakpoint set too changes by a whole request, before
a step() or after it and never during one, so each step() looks at one set: DESIGN CHOICE, where
93_implementation_defined.md U14 leaves open whether the set may change during a step() in flight (60_exceptions.md R68;
log 33). -/
def serve (r : Request) (s : State) : Host.Outcome State Fault Refusal :=
  match r with
  | .step => interpreterStep s
  | .issue w => hostIssue w s
  | .present c => portP c s
  | .load program => ownerLoad program s
  | .shutdown => .next { s with terminal := true }
  | .setBreakpoint line => .next { s with breakpoints := insertSorted line s.breakpoints }
  | .clearBreakpoint line => .next { s with breakpoints := removeFrom line s.breakpoints }
  | .edit e => inspectorEdit e s
  | .setKey key pressed => .next (s.setKey key pressed)
  | .clock => .next { s with elapsed := s.elapsed + 1 }

/-- The next request and the state without it; with nothing asked for, the scheduler calls `step()` (log 15). -/
def State.nextRequest (s : State) : Request := s.agenda.headD .step

def State.popRequest (s : State) : State := { s with agenda := s.agenda.tail }

end Sys2Proof.Machine
end

