-- ==== Sys2Proof/Machine/Step.lean ====
section
/-! DEFINITION. One step of the machine: the next request of the total order, served whole.
spec/20_memory.md R30; spec/00_scope.md R3. -/

namespace Sys2Proof.Machine

def step (s : State) : Host.Outcome State Fault Refusal := serve s.nextRequest s.popRequest

/-- `s` made so that its next step runs the instruction of the given table word: an instruction word stored at the
program counter of a loaded host, or a command on port P (log 3, log 27). -/
def State.withFetchWord (s : State) (nbits w : Nat) : State :=
  if nbits ≤ 8 then s.placeCommand (BitVec.ofNat 1 w) else s.placeWord (BitVec.ofNat 16 w)

end Sys2Proof.Machine
end

