-- ==== Sys2Proof/Safety.lean ====
section
/-! DEFINITION. The terms claims are stated in: completion, frames, the invariant, the execution side's view, runs, and
the sprite's effect written out in numbers. spec/10_state.md R19; spec/41_draw.md R47, R49; spec/42_presentation.md R57;
spec/70_reset_and_hazards.md R79; spec/93_implementation_defined.md section 2. -/

namespace Sys2Proof.Machine

/-- `k` steps of the machine, ending at the first stop (the host's `Core.run` of `Sys2Proof.core`: Laws/Run.lean). -/
def run : Nat → State → Host.Outcome State Fault Refusal
  | 0, s => .next s
  | k + 1, s =>
    match step s with
    | .next t => run k t
    | .fault r => .fault r
    | .refused r => .refused r

/-- The grids, the flag and the records of the ports are `t`'s own; everything else the host owns, but the general
registers, is as in `s`, every byte of memory included (10_state.md R19). -/
def SameHost (s t : State) : Prop :=
  t.index = s.index ∧ t.mem = s.mem ∧ (∀ a, t.cell a = s.cell a) ∧ t.pc = s.pc ∧ t.sp = s.sp ∧ t.stack = s.stack ∧
  t.delay = s.delay ∧ t.sound = s.sound ∧ t.keys = s.keys ∧ t.loaded = s.loaded ∧ t.terminal = s.terminal ∧
  t.suspended = s.suspended ∧ t.breakpoints = s.breakpoints ∧ t.elapsed = s.elapsed ∧ t.agenda = s.agenda ∧
  t.launches = s.launches ∧ t.draws = s.draws

/-- The block's own state is as it was (10_state.md R7, R8, R9). -/
def SameBlock (s t : State) : Prop := t.live = s.live ∧ t.pres = s.pres ∧ t.dirty = s.dirty

/-- All that a DRW reads beside the block is as in `s`: the registers, I and every byte of memory (41_draw.md R46). -/
def SameOperands (s t : State) : Prop :=
  (∀ r, t.reg r = s.reg r) ∧ t.index = s.index ∧ ∀ a, t.cell a = s.cell a

/-- Every pixel of the grid is unset (00_scope.md section 6, `ZERO_GRID`). -/
def Blank (g : Grid) : Prop := ∀ x y, x < gridWidth → y < gridHeight → pixel g x y = false

/-- "DIRTY = 0 implies PRES = LIVE" (42_presentation.md R57; 70_reset_and_hazards.md R79). -/
abbrev State.Coherent (s : State) : Prop := s.dirty = false → s.pres = s.live

/-- What every step keeps: memory in canonical form, the grids equal when no redraw is pending, the two sets in
canonical form, and only a loaded host is suspended. -/
abbrev State.Inv (s : State) : Prop :=
  s.mem.wf ∧ s.Coherent ∧ s.breakpoints.Pairwise (· < ·) ∧ s.keys.Pairwise (· < ·) ∧
  (s.suspended.isSome = true → s.loaded = true)

/-- The sprite's byte for row `row`, in numbers: the cell at I + row, or 0 beyond address 4095 (20_memory.md R21, R22). -/
def State.spriteByte (s : State) (row : Nat) : Byte :=
  if s.index.toNat + row ≤ 4095 then s.cell (s.index.toNat + row) else 0

/-- A sprite bit of 1 lands on the pixel (px, py) when DRW X, Y, N runs in `s`, in numbers (41_draw.md R45, R47;
20_memory.md R25). -/
abbrev Toggles (s : State) (x y : RegNum) (n px py : Nat) : Prop :=
  ∃ row, row < n ∧ ∃ i, i < 8 ∧ px = ((s.reg x).toNat + i) % 64 ∧ py = ((s.reg y).toNat + row) % 32 ∧
    (s.spriteByte row).getLsbD (7 - i) = true

/-- What the execution side can see or change: everything but PRES, DIRTY, the SNAP results and the agenda
(93_implementation_defined.md section 2). -/
def State.execSide (s : State) : State := { s with pres := zeroGrid, dirty := false, snaps := [], agenda := [] }

/-- The execution side of an outcome. -/
def outcomeSide : Host.Outcome State Fault Refusal → Host.Outcome State Fault Refusal
  | .next s => .next s.execSide
  | .fault r => .fault r
  | .refused r => .refused r

/-- A request of the reader (00_scope.md R3). -/
def Request.isReaders : Request → Bool
  | .present _ => true
  | _ => false

/-- The total order less the reader's requests. -/
def withoutReader (rs : List Request) : List Request := rs.filter fun r => !r.isReaders

/-- The host is ready to fetch: loaded, not shut down, and the current line no breakpoint (00_scope.md R4). -/
def State.Ready (s : State) : Prop := s.loaded = true ∧ s.terminal = false ∧ s.atBreakpoint = none

/-- The request brings the execution-side operation `i` to the block: a ready host's `step()` fetches its word, or a host
that drives port E hands its word over (00_scope.md R4; 60_exceptions.md R67 to R69). -/
def Brings (r : Request) (s : State) (i : Instr) : Prop :=
  (r = .step ∧ s.Ready ∧ decodeE s.fetchWord = .ok i) ∨
  ∃ w, r = .issue w ∧ s.drivesPortE = true ∧ decodeE w = .ok i

/-- The request clears the block: it brings a CLS, or it is the owner's load (40_clear.md R43; 70_reset_and_hazards.md
R72). -/
def Clears (r : Request) (s : State) : Prop := Brings r s .cls ∨ ∃ program, r = .load program

/-- The host stands: not loaded, shut down, or suspended with the breakpoint still there if it is `step()` that is called
(60_exceptions.md R68, R69; 70_reset_and_hazards.md R72). -/
def State.Stands (s : State) : Prop :=
  s.loaded = false ∨ s.terminal = true ∨
  (s.suspended.isSome = true ∧ (s.nextRequest = .step → s.atBreakpoint.isSome = true))

/-- The scheduler's turn: its `step()` is the next request, or nothing else is asked for (log 15). -/
def State.SchedulersTurn (s : State) : Prop := s.agenda = [] ∨ ∃ rs, s.agenda = .step :: rs

end Sys2Proof.Machine
end

