-- ==== Sys2Proof/Certificates/Slice0/Obligations.lean ====
section
/-! DEFINITION. The statements for the provers, each with the rule of spec/ it comes from. -/

open Sys2Proof Sys2Proof.Machine

/-! ### Reset and program load -/

/-- 10_state.md R18, the block's part: LIVE and PRES all 0 and DIRTY 0. The host's values right after creation are the
model's choice (log 3, 4) and are not stated. -/
def Obligations.ResetLeavesTheBlockClear : Prop :=
  Blank State.reset.live ∧ Blank State.reset.pres ∧ State.reset.dirty = false ∧ State.reset.loaded = false

/-- 70_reset_and_hazards.md R72 and R73, 10_state.md R18: a program load clears the block as CLS does, clears every
register, puts the program counter at 512 and the stack pointer at 0, and the host is loaded. Index 0 is the spec's own
decision (92_eei_decisions.md D11; log 4). The rule names the timers among what a load resets and gives them no value: 0 is the
model's (log 22, 23). That the suspended flag goes down, and that the requests still to come, the shutdown flag and the
breakpoints are kept, is the model's too (log 22). -/
def Obligations.ProgramLoadResetsTheMachine : Prop :=
  ∀ (program : List Byte) (s : State), s.terminal = false →
    ∃ t, serve (.load program) s = .next t ∧ SameBlock (s.clearGrids) t ∧ Blank t.live ∧ Blank t.pres ∧ t.dirty = false ∧
      (∀ r, t.reg r = 0) ∧ t.pc = 512#16 ∧ t.sp = 0 ∧ t.index = 0 ∧ t.delay = 0 ∧ t.sound = 0 ∧ t.loaded = true ∧
      t.suspended = none ∧ t.terminal = false ∧ t.agenda = s.agenda ∧ t.breakpoints = s.breakpoints

/-- 20_memory.md R28: after a load, the program's bytes lie at 512 and up, as far as memory goes. -/
def Obligations.LoadedProgramLiesAt512 : Prop :=
  ∀ (s : State) (program : List Byte) (k : Nat) (b : Byte), program[k]? = some b → 512 + k < 4096 →
    (s.loadProgram program).cell (512 + k) = b

/-- 70_reset_and_hazards.md R72, 20_memory.md R28, 00_scope.md R4: the step after a load runs the instruction the program
begins with, at 512, with the block and the registers as the load left them, unless line 0 is a breakpoint (log 3, 22). The
word of CLS is the spec's decision D4 (log 9). -/
def Obligations.LoadedProgramStartsWithItsFirstWord : Prop :=
  ∀ (s : State) (i : Instr) (w : Word) (rest : List Byte), s.terminal = false → 0 ∉ s.breakpoints →
    WellFormed i → encode i = .e w →
    run 2 { s with agenda := [.load (bytesOfWord w ++ rest), .step] } =
      exec i { s.loadProgram (bytesOfWord w ++ rest) with agenda := [], pc := 514#16 }

/-! ### The invariant -/

def Obligations.ResetMeetsTheInvariant : Prop := State.reset.Inv

/-- 42_presentation.md R57 and 70_reset_and_hazards.md R79 (DIRTY = 0 implies PRES = LIVE), with the canonical forms of
memory and of the host's two sets: kept by every request of every agent, the host's own instructions included. -/
def Obligations.EveryStepKeepsTheInvariant : Prop :=
  ∀ s t : State, s.Inv → step s = .next t → t.Inv

/-! ### Encoding -/

/-- 30_encoding.md R36 to R39: decoding the word or command of a well-formed instruction gives it back, operands
included. The word of CLS and the codes of port P are the spec's decisions D4 and D10 (log 9, 27). -/
def Obligations.DecodeOfEncodeIsTheInstruction : Prop :=
  ∀ i : Instr, WellFormed i → decode (encode i) = .ok i

/-- 30_encoding.md R36 to R40, the other direction: what the decoder accepts is well-formed, and its own encoding.
The word of CLS and the codes of port P are the spec's decisions D4 and D10 (log 9, 27). -/
def Obligations.EncodeOfDecodeIsTheWord : Prop :=
  ∀ (p : PortWord) (i : Instr), decode p = .ok i → WellFormed i ∧ encode i = p

/-- 30_encoding.md R36: the words of group 0xD, all 4096 of them, are DRW, with X in bits 11:8, Y in 7:4 and N in 3:0;
no other word is. -/
def Obligations.GroupDWordsAreDrw : Prop :=
  (∀ w : Word, w &&& 0xF000#16 = 0xD000#16 → ∃ (x y : RegNum) (n : Nat), decodeE w = .ok (.drw x y n) ∧
    x.val = w.toNat / 256 % 16 ∧ y.val = w.toNat / 16 % 16 ∧ n = w.toNat % 16) ∧
  (∀ (w : Word) (x y : RegNum) (n : Nat), decodeE w = .ok (.drw x y n) → w &&& 0xF000#16 = 0xD000#16) ∧
  (∀ (x y : RegNum) (n : Nat), n ≤ 15 → ∃ w : Word, w &&& 0xF000#16 = 0xD000#16 ∧ decodeE w = .ok (.drw x y n))

/-- 30_encoding.md R37 and R40: CLS is the one word 0x00E0 (92_eei_decisions.md D4; log 9), and on port E a word that is
neither CLS nor DRW changes nothing (92_eei_decisions.md D19; log 16). -/
def Obligations.OtherWordsAreIgnoredOnPortE : Prop :=
  (∀ w : Word, decodeE w = .ok .cls ↔ w = 0x00E0#16) ∧
  (∀ (w : Word) (s : State), w ≠ 0x00E0#16 → w &&& 0xF000#16 ≠ 0xD000#16 →
    decodeE w = .error (.notTheBlocks w) ∧ portE w s = .next s)

/-- 95_test_vectors.md section 2.1, 20_memory.md R23, 30_encoding.md R38: words and bytes written out from the spec's
encodings decode to the instructions they stand for. The word 0x00E0 of CLS is the spec's decision D4, from general
knowledge (log 9); the codes of port P, 0 for SNAP and 1 for COMMIT, are its decision D10 (log 27). That a byte alone is
rejected as truncated is the model's choice (log 31). -/
def Obligations.SampleWordsDecode : Prop :=
  decodeE 0x00E0#16 = .ok .cls ∧ decodeE 0xD015#16 = .ok (.drw 0 1 5) ∧ decodeE 0xDAB0#16 = .ok (.drw 10 11 0) ∧
  decodeE 0xDFFF#16 = .ok (.drw 15 15 15) ∧ decodeE 0x00EE#16 = .error (.notTheBlocks 0x00EE#16) ∧
  decodeE 0xE0D0#16 = .error (.notTheBlocks 0xE0D0#16) ∧ decodeP 0#1 = .snap ∧ decodeP 1#1 = .commit ∧
  decodeBytes [0xD0#8, 0x15#8, 0x00#8] = .ok (.drw 0 1 5, [0x00#8]) ∧ decodeBytes [0xD0#8] = .error .truncated

/-! ### A step runs the decoded instruction -/

/-- 20_memory.md R23: the fetched word's high byte is the byte at the program counter, its low byte the next one, for every
program counter whose fetch the spec describes (even, both bytes in memory; log 17). -/
def Obligations.FetchedWordsAreBigEndian : Prop :=
  ∀ s : State, s.pc.toNat % 2 = 0 → s.pc.toNat + 1 ≤ 4095 →
    s.fetchWord.toNat = 256 * (s.cell s.pc.toNat).toNat + (s.cell (s.pc.toNat + 1)).toNat

/-- 00_scope.md R4, 20_memory.md R23, 10_state.md R16, 60_exceptions.md R70: on the scheduler's turn a ready host decays
its timers, fetches the big-endian word at its program counter, moves past it, and the step is `exec` of the word's
instruction. Whose turn it is comes from the agenda (log 15), the suspended flag goes down (log 18), and the timers lose
the intervals gone by (log 19): these are the model's. -/
def Obligations.StepRunsTheFetchedInstruction : Prop :=
  ∀ (s : State) (i : Instr), s.SchedulersTurn → s.Ready → s.pc.toNat % 2 = 0 → s.pc.toNat + 1 ≤ 4095 →
    decodeBytes [s.cell s.pc.toNat, s.cell (s.pc.toNat + 1)] = .ok (i, []) →
    step s = exec i { s with
      agenda := s.agenda.tail
      pc := s.pc + 2#16
      suspended := none
      delay := BitVec.ofNat 8 (s.delay.toNat - s.elapsed)
      sound := BitVec.ofNat 8 (s.sound.toNat - s.elapsed)
      elapsed := 0 }

/-- 30_encoding.md R38 and R34: a command on port P, whatever the host is doing, or a word of the block's handed over by a
host that drives port E (loaded, not shut down, not suspended: log 28), is served by `exec` of its instruction on the
state as it is. The word of CLS and the codes of port P are the spec's decisions D4 and D10 (log 9, 27). -/
def Obligations.StepRunsThePortsOperation : Prop :=
  ∀ (s : State) (rs : List Request),
    (∀ c : BitVec 1, s.agenda = .present c :: rs → step s = exec (decodeP c) { s with agenda := rs }) ∧
    (∀ (w : Word) (i : Instr), s.agenda = .issue w :: rs → s.loaded = true → s.terminal = false →
      s.suspended = none → decodeE w = .ok i → step s = exec i { s with agenda := rs })

/-- 00_scope.md section 3 and 30_encoding.md R40: when a ready host fetches a word that is not the block's, neither the block
nor its ports' records change, whether the host knows the word or not (log 32) and whatever its instruction does to it (log 1). It
holds for a fetch the spec does not describe as well (log 17). The step completes, but for a call or a return at an end of
the call stack, where it is a fault as 93_implementation_defined.md U8 rules; with 1 to 15 levels taken it always
completes. That a call takes one level and a return gives one back is the model's, from the family (log 30). -/
def Obligations.HostInstructionsNeverTouchTheBlock : Prop :=
  ∀ s : State, s.SchedulersTurn → s.Ready → decodeE s.resume.fetchWord = .error (.notTheBlocks s.resume.fetchWord) →
    (∀ t, step s = .next t → SameBlock s t ∧ t.snaps = s.snaps ∧ t.diag = s.diag ∧ t.agenda = s.agenda.tail ∧
      t.breakpoints = s.breakpoints ∧ t.keys = s.keys) ∧
    (1 ≤ s.sp → s.sp ≤ 15 → ∃ t, step s = .next t) ∧
    ((∃ t, step s = .next t) ∨ (step s = .fault .callStackOverflow ∧ 16 ≤ s.sp) ∨
      (step s = .fault .callStackUnderflow ∧ s.sp = 0))

/-- 30_encoding.md R40, 60_exceptions.md R63 and 93_implementation_defined.md U9, 00_scope.md R4: when a ready host fetches a
word that is not the block's, at a program counter whose fetch the spec describes, an unknown word is a no-op that leaves
the program counter past it and does not halt; a known one runs as the host's own instruction from there. Which words the
host knows and what a known one changes are free values (log 32, 1); whose turn it is, the suspended flag and the timers'
intervals are the model's (log 15, 18, 19). -/
def Obligations.UnknownWordsAreNoOps : Prop :=
  ∀ s : State, s.SchedulersTurn → s.Ready → s.pc.toNat % 2 = 0 → s.pc.toNat + 1 ≤ 4095 →
    decodeE s.fetchWord = .error (.notTheBlocks s.fetchWord) →
    ∃ u : State, u = { s with
        agenda := s.agenda.tail
        pc := s.pc + 2#16
        suspended := none
        delay := BitVec.ofNat 8 (s.delay.toNat - s.elapsed)
        sound := BitVec.ofNat 8 (s.sound.toNat - s.elapsed)
        elapsed := 0 } ∧
      step s = if Config.hostKnows s.fetchWord then u.runHost (Config.hostChange u.draws) else .next u

/-- 60_exceptions.md R68: at a breakpoint the step only sets the suspended flag, with the line (an address's line: log 18;
whose turn it is: log 15). -/
def Obligations.BreakpointSuspendsTheHost : Prop :=
  ∀ (s : State), s.SchedulersTurn → s.loaded = true → s.terminal = false → 512 ≤ s.pc.toNat →
    (s.pc.toNat - 512) / 2 ∈ s.breakpoints →
    step s = .next { s with agenda := s.agenda.tail, suspended := some ((s.pc.toNat - 512) / 2) }

/-- 00_scope.md R4 and 60_exceptions.md R69: before the first load and after shutdown the scheduler's `step()` changes
nothing (after shutdown by the spec's decision D20; log 21; whose turn it is: log 15). -/
def Obligations.UnloadedOrShutDownHostDoesNothing : Prop :=
  ∀ s : State, s.SchedulersTurn → s.loaded = false ∨ s.terminal = true → step s = .next { s with agenda := s.agenda.tail }

/-- 60_exceptions.md R61: no operation of the block faults, is refused or hangs, in any state. -/
def Obligations.EveryOperationCompletes : Prop :=
  ∀ (i : Instr) (s : State), ∃ t, exec i s = .next t

/-- 60_exceptions.md R61, R63, R69, 70_reset_and_hazards.md R78 and 93_implementation_defined.md U8: a step is never refused
and stops in four cases only. Two are moves the environment does not make: an edit while the host is not suspended (the
spec's decision D21; log 20) and a load after shutdown (D20; log 21); that they stop under a fault of their own is the
model's form. Two are the host's own instruction, a word that is not the block's and that the host knows (log 32), at an end of
the call stack: U8 rules a fault there; where the ends lie in terms of the stack pointer is the model's (log 30). -/
def Obligations.StepStopsOnlyOnForbiddenMoves : Prop :=
  ∀ s : State,
    (∀ r, step s ≠ .refused r) ∧
    (step s = .fault .editWhileRunning ↔ s.suspended = none ∧ ∃ e rs, s.agenda = .edit e :: rs) ∧
    (step s = .fault .loadAfterShutdown ↔ s.terminal = true ∧ ∃ p rs, s.agenda = .load p :: rs) ∧
    (step s = .fault .callStackOverflow →
      s.SchedulersTurn ∧ s.Ready ∧ decodeE s.fetchWord = .error (.notTheBlocks s.fetchWord) ∧
      Config.hostKnows s.fetchWord = true ∧ 16 ≤ s.sp) ∧
    (step s = .fault .callStackUnderflow →
      s.SchedulersTurn ∧ s.Ready ∧ decodeE s.fetchWord = .error (.notTheBlocks s.fetchWord) ∧
      Config.hostKnows s.fetchWord = true ∧ s.sp = 0)

/-- 93_implementation_defined.md U8 and 60_exceptions.md R63: a host instruction that overflows or underflows the call stack
is a fault and leaves no value; any other completes. The 16 levels are U8's; that the stack pointer counts the levels
taken, that a call takes one and a return gives one back, and that a return from beyond the 16 (a depth only an edit sets)
counts as overflow, are the model's (log 30). It says so for every change `c` a host instruction may make. -/
def Obligations.CallStackFaultsBeyondItsLevels : Prop :=
  ∀ (c : HostChange) (s : State),
    (c.stackUse = .keep → ∃ t, s.runHost c = .next t ∧ SameBlock s t ∧ t.sp = s.sp) ∧
    (c.stackUse = .push → s.sp < 16 → ∃ t, s.runHost c = .next t ∧ SameBlock s t ∧ t.sp = s.sp + 1) ∧
    (c.stackUse = .push → 16 ≤ s.sp → s.runHost c = .fault .callStackOverflow) ∧
    (c.stackUse = .pop → s.sp = 0 → s.runHost c = .fault .callStackUnderflow) ∧
    (c.stackUse = .pop → 0 < s.sp → s.sp ≤ 16 → ∃ t, s.runHost c = .next t ∧ SameBlock s t ∧ t.sp + 1 = s.sp) ∧
    (c.stackUse = .pop → 16 < s.sp → s.runHost c = .fault .callStackOverflow)

/-- 93_implementation_defined.md U8 ("never a value"): from a depth within the 16 levels no step leads to a depth beyond
them, whatever request is served and whatever the host's instruction does, but for the inspector's edit of the stack
pointer itself (60_exceptions.md R68; log 20, 30). -/
def Obligations.CallStackStaysWithinItsLevels : Prop :=
  ∀ s t : State, s.sp ≤ 16 → step s = .next t → (∀ n, s.nextRequest ≠ .edit (.sp n)) → t.sp ≤ 16

/-! ### CLS -/

/-- 40_clear.md R43: CLS clears both grids and DIRTY, writes no register and no flag, emits nothing, and is idempotent. -/
def Obligations.ClsClearsBothGrids : Prop :=
  ∀ s : State, ∃ t, exec .cls s = .next t ∧ Blank t.live ∧ Blank t.pres ∧ t.dirty = false ∧ t.live = t.pres ∧
    (∀ r, t.reg r = s.reg r) ∧ SameHost s t ∧ t.diag = s.diag ∧ t.snaps = s.snaps ∧ exec .cls t = .next t

/-- 40_clear.md R44: after CLS a SNAP returns the blank grid without a COMMIT, and a COMMIT changes nothing: of the
operations in every state, and of the requests on the two ports when the host drives port E (log 28). The word 0x00E0 and the command 0 of SNAP are the
spec's decisions D4 and D10 (log 9, 27). -/
def Obligations.ClsIsVisibleWithoutCommit : Prop :=
  ∀ s : State,
    (∃ t u g, exec .cls s = .next t ∧ exec .commit t = .next t ∧ exec .snap t = .next u ∧ u.snaps = s.snaps ++ [g] ∧
      Blank g) ∧
    (s.loaded = true → s.terminal = false → s.suspended = none →
      ∃ t g, run 2 { s with agenda := [.issue 0x00E0#16, .present 0#1] } = .next t ∧ t.snaps = s.snaps ++ [g] ∧ Blank g ∧
        exec .commit t = .next t)

/-! ### DRW -/

/-- 41_draw.md R45, R47, R48: DRW inverts exactly the pixels that a sprite bit of 1 lands on and leaves every other
pixel as it was. Rests on the spec's decisions D1 (rows mod 32), D5 (bit 7 leftmost), D6 (no address wrap) and D7
(operands read first); log 5, 6, 7, 10. -/
def Obligations.DrwInvertsExactlyTheSpritePixels : Prop :=
  ∀ (x y : RegNum) (n : Nat) (s : State), WellFormed (.drw x y n) →
    ∃ t, exec (.drw x y n) s = .next t ∧
      ∀ px py, px < 64 → py < 32 → pixel t.live px py = (pixel s.live px py ^^ decide (Toggles s x y n px py))

/-- 41_draw.md R49, R50: after DRW, VF is 0x01 if a sprite bit of 1 lands on a pixel that was set when the DRW began, and
0x00 if none does; this is also so when VF is a coordinate (41_draw.md R56). Rests on D1, D5, D6, D7; log 5, 6, 7, 10. -/
def Obligations.DrwFlagTellsTheCollision : Prop :=
  ∀ (x y : RegNum) (n : Nat) (s : State), WellFormed (.drw x y n) →
    ∃ t, exec (.drw x y n) s = .next t ∧
      ((∃ px py, px < 64 ∧ py < 32 ∧ Toggles s x y n px py ∧ pixel s.live px py = true) → t.reg 15 = 0x01#8) ∧
      ((¬∃ px py, px < 64 ∧ py < 32 ∧ Toggles s x y n px py ∧ pixel s.live px py = true) → t.reg 15 = 0x00#8)

/-- 41_draw.md R51: every DRW ends with a redraw pending, for every height, sprite and address. -/
def Obligations.DrwAlwaysRequestsARedraw : Prop :=
  ∀ (x y : RegNum) (n : Nat) (s : State), ∃ t, exec (.drw x y n) s = .next t ∧ t.dirty = true

/-- 41_draw.md R52, 10_state.md R19: DRW leaves PRES, V[0] to V[14], I, every byte of memory, the program counter and the
rest of the host as they were. -/
def Obligations.DrwLeavesTheRestAlone : Prop :=
  ∀ (x y : RegNum) (n : Nat) (s : State), ∃ t, exec (.drw x y n) s = .next t ∧ t.pres = s.pres ∧ t.snaps = s.snaps ∧
    (∀ r : RegNum, r ≠ 15 → t.reg r = s.reg r) ∧ SameHost s t

/-- 60_exceptions.md R62, R65: a DRW emits one OobRead for each row address above 4095, carrying it, in row order, and
nothing else. Rests on D6 and D12; log 7, 14. -/
def Obligations.DrwReportsRowsOutsideMemory : Prop :=
  ∀ (x y : RegNum) (n : Nat) (s : State), WellFormed (.drw x y n) →
    ∃ t, exec (.drw x y n) s = .next t ∧
      t.diag = s.diag ++ ((List.range n).filter fun row => decide (4095 < s.index.toNat + row)).map
        fun row => Diag.oobRead (BitVec.ofNat 17 (s.index.toNat + row))

/-- 41_draw.md R55: a sprite that runs off the top of memory is drawn as its rows inside memory only: with
k = min N (4096 - I) rows left, the DRW of k rows gives the same LIVE and VF. The rows beyond read 0 and are reported
once each, in row order; the DRW completes and sets DIRTY. With I at 4096 or above nothing is drawn and VF is 0. That the
addresses do not wrap is the spec's decision D6 (log 7). -/
def Obligations.SpriteOffTheTopIsDrawnAsItsInRangeRows : Prop :=
  ∀ (x y : RegNum) (n : Nat) (s : State) (k : Nat), WellFormed (.drw x y n) → k = min n (4096 - s.index.toNat) →
    ∃ t u, exec (.drw x y n) s = .next t ∧ exec (.drw x y k) s = .next u ∧
      t.live = u.live ∧ t.reg 15 = u.reg 15 ∧ t.dirty = true ∧ u.diag = s.diag ∧
      (∀ row, k ≤ row → row < n → s.rowByte row = 0x00#8) ∧
      t.diag = s.diag ++ (List.range (n - k)).map (fun j => Diag.oobRead (BitVec.ofNat 17 (s.index.toNat + (k + j)))) ∧
      (4096 ≤ s.index.toNat → t.live = s.live ∧ t.reg 15 = 0x00#8 ∧ k = 0)

/-- 41_draw.md R48: the same sprite drawn twice at the same coordinates restores LIVE. The second draw reads its
coordinates after the first wrote VF, so where X or Y is 15 the premise asks that VF did not change. -/
def Obligations.DrawingTwiceRestoresTheGrid : Prop :=
  ∀ (x y : RegNum) (n : Nat) (s t : State), WellFormed (.drw x y n) → exec (.drw x y n) s = .next t →
    t.reg x = s.reg x → t.reg y = s.reg y → ∃ u, exec (.drw x y n) t = .next u ∧ u.live = s.live

/-- 95_test_vectors.md S3 ("drawing two non-overlapping sprites in sequence never sets the flag"), 41_draw.md R49: from a
blank grid, two draws whose sprite bits share no pixel leave VF 0 each time. -/
def Obligations.NonOverlappingSpritesNeverCollide : Prop :=
  ∀ (x y : RegNum) (n : Nat) (x' y' : RegNum) (n' : Nat) (s t : State),
    WellFormed (.drw x y n) → WellFormed (.drw x' y' n') → Blank s.live → exec (.drw x y n) s = .next t →
    (∀ px py, ¬(Toggles s x y n px py ∧ Toggles t x' y' n' px py)) →
    t.reg 15 = 0x00#8 ∧ ∃ u, exec (.drw x' y' n') t = .next u ∧ u.reg 15 = 0x00#8

/-- 41_draw.md R46, R47, R56: what DRW draws and the flag it writes depend on LIVE, the sprite's bytes and the two
coordinates mod 64 and mod 32 alone: not on which registers hold them, nor on PRES, DIRTY, the other registers or the
rest of memory. Rests on D1 and D7; log 5, 10. -/
def Obligations.DrawDependsOnlyOnWrappedCoordinatesAndRows : Prop :=
  ∀ (x y x' y' : RegNum) (n : Nat) (s s' : State), WellFormed (.drw x y n) → s'.live = s.live →
    (∀ row, row < n → s'.spriteByte row = s.spriteByte row) →
    (s'.reg x').toNat % 64 = (s.reg x).toNat % 64 → (s'.reg y').toNat % 32 = (s.reg y).toNat % 32 →
    ∃ t t', exec (.drw x y n) s = .next t ∧ exec (.drw x' y' n) s' = .next t' ∧ t'.live = t.live ∧ t'.reg 15 = t.reg 15

/-- 41_draw.md R53: within one DRW no pixel is addressed twice, and every addressed pixel is in the grid. -/
def Obligations.SpriteAddressesDistinctPixels : Prop :=
  ∀ (x0 y0 : Byte) (n row row' i i' : Nat), n ≤ 15 → row < n → row' < n → i < 8 → i' < 8 →
    pixelColumn x0 i < 64 ∧ pixelRow y0 row < 32 ∧
    (pixelColumn x0 i = pixelColumn x0 i' → pixelRow y0 row = pixelRow y0 row' → row = row' ∧ i = i')

/-- 41_draw.md R53, 92_eei_decisions.md D22: the order in which the rows are processed affects neither the grid nor the
collision. -/
def Obligations.RowOrderDoesNotMatter : Prop :=
  ∀ (x0 y0 : Byte) (rowByte : Nat → Byte) (n : Nat) (rows : List Nat) (g : Grid), n ≤ 15 → rows.Perm (List.range n) →
    drawRows x0 y0 rowByte rows ⟨g, false⟩ = drawRows x0 y0 rowByte (List.range n) ⟨g, false⟩

/-- 41_draw.md R54: with N = 0 nothing is read, drawn or reported; VF becomes 0 and a redraw is pending. A decision of the
spec's (D14; log 11). -/
def Obligations.DrwOfNoRowsOnlyClearsTheFlag : Prop :=
  ∀ (x y : RegNum) (s : State), ∃ t, exec (.drw x y 0) s = .next t ∧ t.live = s.live ∧ t.reg 15 = 0x00#8 ∧
    t.dirty = true ∧ t.diag = s.diag ∧ t.pres = s.pres ∧ (∀ r : RegNum, r ≠ 15 → t.reg r = s.reg r) ∧ SameHost s t

/-- 20_memory.md R21: a read of a cell that exists gives its byte and no event; any other read gives 0 and one event with
the address; a write outside the cells is dropped; a row byte of 0 draws nothing and cannot collide. -/
def Obligations.OutOfRangeAccessesAreRejected : Prop :=
  (∀ (s : State) (addr : SpriteAddr),
    (addr.toNat ≤ 4095 → s.memRead addr = s.cell addr.toNat ∧ readDiag addr = []) ∧
    (4095 < addr.toNat → s.memRead addr = 0x00#8 ∧ readDiag addr = [.oobRead addr])) ∧
  (∀ (m : Memory) (addr : Nat) (b : Byte), 4095 < addr → m.store addr b = m) ∧
  (∀ (x0 : Byte) (y : Nat) (k : Canvas), drawRow x0 y 0x00#8 k = k)

/-- 20_memory.md R22: the row's address is the plain sum, up to 65549, with no wrap at 4096 or 65536 (the spec's decision
D6; log 7). -/
def Obligations.SpriteAddressDoesNotWrap : Prop :=
  ∀ (base : Word) (row : Nat), row ≤ 14 → (spriteAddr base row).toNat = base.toNat + row ∧ base.toNat + row ≤ 65549

/-! ### COMMIT and SNAP -/

/-- 42_presentation.md R57: with a redraw pending COMMIT copies the whole grid and clears DIRTY; without one it changes
nothing; LIVE, the registers and the host stay as they were in both; a second COMMIT changes nothing. -/
def Obligations.CommitCopiesAPendingRedraw : Prop :=
  ∀ s : State, ∃ t, exec .commit s = .next t ∧ (s.dirty = true → t.pres = s.live ∧ t.dirty = false) ∧
    (s.dirty = false → t = s) ∧ t.live = s.live ∧ (∀ r, t.reg r = s.reg r) ∧ SameHost s t ∧ t.snaps = s.snaps ∧
    t.diag = s.diag ∧ exec .commit t = .next t

/-- 42_presentation.md R58: SNAP returns PRES and writes no state whatever: not DIRTY, no grid, no register, no memory. -/
def Obligations.SnapReturnsThePresentationGrid : Prop :=
  ∀ s : State, ∃ t, exec .snap s = .next t ∧ t.snaps = s.snaps ++ [s.pres] ∧ SameBlock s t ∧ (∀ r, t.reg r = s.reg r) ∧
    SameHost s t ∧ t.diag = s.diag

/-- 42_presentation.md R59: the SNAP result has 2048 bits, and bit `64*y + x` is the pixel (x, y); the layout is the spec's
decision D9 (log 13). -/
def Obligations.SnapResultIsRowMajor : Prop :=
  ∀ g : Grid, (snapVector g).length = 2048 ∧
    ∀ x y, x < 64 → y < 32 → (snapVector g)[64 * y + x]? = some (pixel g x y)

/-- 20_memory.md R31, 42_presentation.md R60: a COMMIT and then a SNAP return the live grid as it stood at the COMMIT, from
every state that the invariant allows. The command codes are the spec's decision D10 (log 27). -/
def Obligations.CommitThenSnapShowsEveryDraw : Prop :=
  ∀ s : State, s.Coherent →
    ∃ t, run 2 { s with agenda := [.present 1#1, .present 0#1] } = .next t ∧ t.snaps = s.snaps ++ [s.live] ∧ t.live = s.live

/-! ### Rules about the whole machine -/

/-- 10_state.md R7, 00_scope.md R5, 70_reset_and_hazards.md R72: a step changes LIVE only where its request brings a DRW,
and then to what that DRW makes of the block and the operands as they were, or where its request brings a CLS or is a
program load, and then to the clear grid. So no other request does: not shutdown, a breakpoint, a key, the clock, an edit
or the reader. A word handed to port E counts as brought when the host drives the port (log 28). -/
def Obligations.OnlyDrwAndClearsChangeLive : Prop :=
  ∀ s t : State, step s = .next t → t.live = s.live ∨
    (Clears s.nextRequest s ∧ Blank t.live ∧ Blank t.pres ∧ t.dirty = false) ∨
    ∃ (x y : RegNum) (n : Nat) (u : State), n ≤ 15 ∧ Brings s.nextRequest s (.drw x y n) ∧ SameBlock s u ∧
      SameOperands s u ∧ exec (.drw x y n) u = .next t

/-- 10_state.md R8, 70_reset_and_hazards.md R72: a step changes PRES only where its request is a COMMIT that finds DIRTY 1,
which copies LIVE, or where its request brings a CLS or is a program load, which clear both grids. -/
def Obligations.OnlyCommitAndClearsChangePres : Prop :=
  ∀ s t : State, step s = .next t → t.pres = s.pres ∨
    (s.nextRequest = .present 1#1 ∧ s.dirty = true ∧ t.pres = s.live ∧ t.live = s.live) ∨
    (Clears s.nextRequest s ∧ Blank t.pres ∧ Blank t.live)

/-- 10_state.md R9, 70_reset_and_hazards.md R79: DIRTY goes from 1 to 0 only by a COMMIT, a CLS or a program load, and
only together with PRES = LIVE; it goes from 0 to 1 only where the request brings a DRW, by that DRW. -/
def Obligations.DirtyFallsOnlyWithEqualGrids : Prop :=
  ∀ s t : State, step s = .next t →
    (s.dirty = true → t.dirty = false →
      (s.nextRequest = .present 1#1 ∨ Clears s.nextRequest s) ∧ t.pres = t.live) ∧
    (s.dirty = false → t.dirty = true → ∃ (x y : RegNum) (n : Nat) (u : State),
      n ≤ 15 ∧ Brings s.nextRequest s (.drw x y n) ∧ SameBlock s u ∧ SameOperands s u ∧ exec (.drw x y n) u = .next t)

/-- 60_exceptions.md R68 and R69, 70_reset_and_hazards.md R72: while the host is not loaded, shut down, or suspended with
its breakpoint still there, no execution-side operation reaches the block. A word for port E changes nothing (the form is
the model's: log 28); the reader's commands run as ever; and no step but a load changes LIVE, none but a load or a COMMIT
changes PRES or DIRTY, and none but a load or an edit changes a register, VF among them. -/
def Obligations.StandingHostLeavesTheBlockAlone : Prop :=
  ∀ s : State, s.Stands →
    (∀ w rs, s.agenda = .issue w :: rs → step s = .next { s with agenda := rs }) ∧
    (∀ c rs, s.agenda = .present c :: rs → step s = exec (decodeP c) { s with agenda := rs }) ∧
    (∀ t, step s = .next t → (∀ program, s.nextRequest ≠ .load program) →
      t.live = s.live ∧ (s.nextRequest ≠ .present 1#1 → t.pres = s.pres ∧ t.dirty = s.dirty) ∧
      ((∀ e, s.nextRequest ≠ .edit e) → ∀ r, t.reg r = s.reg r))

/-- 60_exceptions.md R68, 92_eei_decisions.md D21: while the host is suspended an edit of any raw field completes and does
not touch the block. The edited field is what a later read of it finds, and everything else is as before: the state with
that field put back is the state before, and of the registers, the stack levels and the cells only the edited one changed.
An edit of a cell outside memory is dropped as a write there is (20_memory.md R21). Which fields an edit may write is the
model's (log 20). -/
def Obligations.EditsReachTheHostButNeverTheBlock : Prop :=
  ∀ s : State, s.suspended.isSome = true →
    (∀ e, ∃ t, serve (.edit e) s = .next t ∧ SameBlock s t ∧ t.snaps = s.snaps ∧ t.suspended = s.suspended) ∧
    (∀ (r : RegNum) (b : Byte), ∃ t, serve (.edit (.reg r b)) s = .next t ∧ t.reg r = b ∧
      (∀ q, q ≠ r → t.reg q = s.reg q) ∧ SameHost s t ∧ { t with v := s.v } = s) ∧
    (∀ w : Word, ∃ t, serve (.edit (.index w)) s = .next t ∧ t.index = w ∧ (∀ r, t.reg r = s.reg r) ∧
      (∀ a, t.cell a = s.cell a) ∧ { t with index := s.index } = s) ∧
    (∀ w : Word, ∃ t, serve (.edit (.pc w)) s = .next t ∧ t.pc = w ∧ (∀ r, t.reg r = s.reg r) ∧
      (∀ a, t.cell a = s.cell a) ∧ { t with pc := s.pc } = s) ∧
    (∀ n : Nat, ∃ t, serve (.edit (.sp n)) s = .next t ∧ t.sp = n ∧ (∀ r, t.reg r = s.reg r) ∧
      (∀ a, t.cell a = s.cell a) ∧ { t with sp := s.sp } = s) ∧
    (∀ (level : Fin 16) (w : Word), ∃ t, serve (.edit (.stack level w)) s = .next t ∧ t.stack[level] = w ∧
      (∀ l : Fin 16, l ≠ level → t.stack[l] = s.stack[l]) ∧ (∀ r, t.reg r = s.reg r) ∧ (∀ a, t.cell a = s.cell a) ∧
      { t with stack := s.stack } = s) ∧
    (∀ b : Byte, ∃ t, serve (.edit (.delay b)) s = .next t ∧ t.delay = b ∧ (∀ r, t.reg r = s.reg r) ∧
      (∀ a, t.cell a = s.cell a) ∧ { t with delay := s.delay } = s) ∧
    (∀ b : Byte, ∃ t, serve (.edit (.sound b)) s = .next t ∧ t.sound = b ∧ (∀ r, t.reg r = s.reg r) ∧
      (∀ a, t.cell a = s.cell a) ∧ { t with sound := s.sound } = s) ∧
    (∀ (addr : Nat) (b : Byte), addr < 4096 → ∃ t, serve (.edit (.cell addr b)) s = .next t ∧ t.cell addr = b ∧
      (∀ a, a ≠ addr → t.cell a = s.cell a) ∧ (∀ r, t.reg r = s.reg r) ∧ { t with mem := s.mem } = s) ∧
    (∀ (addr : Nat) (b : Byte), 4096 ≤ addr → serve (.edit (.cell addr b)) s = .next s)

/-- 20_memory.md R30, 70_reset_and_hazards.md R76, 93_implementation_defined.md section 2: whatever COMMITs and SNAPs the
reader issues and wherever they fall, everything the execution side can observe, and the way the run ends, is the same as
with none of them. -/
def Obligations.ReaderNeverDisturbsTheExecutionSide : Prop :=
  ∀ (s : State) (rs : List Request),
    outcomeSide (run rs.length { s with agenda := rs }) =
    outcomeSide (run (withoutReader rs).length { s with agenda := withoutReader rs })

/-- 20_memory.md R30, 42_presentation.md R58: every SNAP result of a run, in any interleaving, is a whole frame: PRES as the
run found it, or LIVE as it stood between two operations of the run. No half-drawn sprite is ever seen (atomicity is the
spec's decision D8; log 8). -/
def Obligations.EverySnapIsAWholeFrame : Prop :=
  ∀ (k : Nat) (s t : State), run k s = .next t → ∀ g ∈ t.snaps,
    g ∈ s.snaps ∨ g = s.pres ∨ ∃ j, j < k ∧ ∃ u, run j s = .next u ∧ u.live = g
end

