-- ==== Sys2Proof/Laws/Grid.lean ====
section
/-! SUPPORT. Grids pixel by pixel: what a flip, a sprite bit and a list of sprite bits do to a pixel and to the
accumulator. spec/41_draw.md R48, R49. -/

namespace Sys2Proof.Machine

theorem gridRow_eq (g : Grid) {y : Nat} (h : y < 32) : gridRow g y = g[y] := by
  simp [gridRow, Vector.getD, h]

@[simp] theorem gridRow_zeroGrid (y : Nat) : gridRow zeroGrid y = 0 := by
  by_cases h : y < 32 <;> simp [gridRow, zeroGrid, Vector.getD, h]

@[simp] theorem pixel_zeroGrid (x y : Nat) : pixel zeroGrid x y = false := by simp [pixel]

theorem pixel_outside (g : Grid) {x y : Nat} (h : ¬(x < 64 ∧ y < 32)) : pixel g x y = false := by
  by_cases hy : y < 32
  · exact BitVec.getLsbD_of_ge _ _ (by omega)
  · simp [pixel, gridRow, Vector.getD, hy]

/-- Two grids with the same pixels are the same grid. -/
theorem grid_ext {g h : Grid} (e : ∀ x y, x < 64 → y < 32 → pixel g x y = pixel h x y) : g = h := by
  apply Vector.ext
  intro y hy
  apply BitVec.eq_of_getLsbD_eq
  intro x hx
  simpa [pixel, gridRow_eq, hy] using e x y hx hy

/-- A flip inverts its own pixel and no other. -/
theorem pixel_flipPixel (g : Grid) {x y : Nat} (hx : x < 64) (hy : y < 32) (a b : Nat) :
    pixel (flipPixel g x y) a b = (pixel g a b ^^ decide (a = x ∧ b = y)) := by
  by_cases hb : b < 32
  · by_cases hyb : y = b
    · subst hyb
      by_cases ha : a < 64
      · simp [pixel, flipPixel, gridRow_eq, hy, BitVec.getLsbD_twoPow, hx, eq_comm]
      · simp [pixel_outside, ha]
        omega
    · simp [pixel, flipPixel, gridRow_eq, hb, hyb, Ne.symm hyb]
  · rw [pixel_outside _ (by omega), pixel_outside _ (by omega)]
    simp
    omega

/-- A sprite bit on a pixel: the new pixel. -/
theorem pixel_plot (k : Canvas) {x y : Nat} (hx : x < 64) (hy : y < 32) (bit : Bool) (a b : Nat) :
    pixel (plot x y bit k).grid a b = (pixel k.grid a b ^^ (bit && decide (a = x ∧ b = y))) := by
  cases bit <;> simp [plot, pixel_flipPixel, hx, hy]

/-- A sprite bit on a pixel: the accumulator. -/
@[simp] theorem plot_hit (k : Canvas) (x y : Nat) (bit : Bool) :
    (plot x y bit k).hit = (k.hit || (bit && pixel k.grid x y)) := by
  cases bit <;> simp [plot]

@[simp] theorem plot_zero (k : Canvas) (x y : Nat) : plot x y false k = k := rfl

theorem pixelColumn_lt (x0 : Byte) (i : Nat) : pixelColumn x0 i < 64 := Nat.mod_lt _ (by decide)

theorem pixelRow_lt (y0 : Byte) (row : Nat) : pixelRow y0 row < 32 := Nat.mod_lt _ (by decide)

/-- A row byte of 0 draws nothing and cannot collide (41_draw.md R55). -/
@[simp] theorem drawRow_zero (x0 : Byte) (y : Nat) (k : Canvas) : drawRow x0 y 0 k = k := by
  simp [drawRow, spriteBit]

@[simp] theorem drawRows_nil (x0 y0 : Byte) (rowByte : Nat → Byte) (k : Canvas) :
    drawRows x0 y0 rowByte [] k = k := rfl

theorem drawRows_cons (x0 y0 : Byte) (rowByte : Nat → Byte) (row : Nat) (rows : List Nat) (k : Canvas) :
    drawRows x0 y0 rowByte (row :: rows) k =
      drawRows x0 y0 rowByte rows (drawRow x0 (pixelRow y0 row) (rowByte row) k) := rfl

theorem drawRows_append (x0 y0 : Byte) (rowByte : Nat → Byte) (rs rs' : List Nat) (k : Canvas) :
    drawRows x0 y0 rowByte (rs ++ rs') k = drawRows x0 y0 rowByte rs' (drawRows x0 y0 rowByte rs k) := by
  simp [drawRows]

/-- Sprite bits one after another, each a triple of column, row and bit. -/
def plotAll (ps : List (Nat × Nat × Bool)) (k : Canvas) : Canvas :=
  ps.foldl (fun k p => plot p.1 p.2.1 p.2.2 k) k

/-- Sprite bits on distinct pixels: a pixel is inverted if a bit of 1 lands on it, and the accumulator says whether one
landed on a pixel that was set before (41_draw.md R49, R53). -/
theorem plotAll_distinct (ps : List (Nat × Nat × Bool)) (k : Canvas)
    (inside : ∀ p ∈ ps, p.1 < 64 ∧ p.2.1 < 32)
    (distinct : ps.Pairwise fun p q => ¬(p.1 = q.1 ∧ p.2.1 = q.2.1)) :
    (∀ a b, pixel (plotAll ps k).grid a b = (pixel k.grid a b ^^ decide ((a, b, true) ∈ ps))) ∧
    (plotAll ps k).hit = (k.hit || decide (∃ p ∈ ps, p.2.2 = true ∧ pixel k.grid p.1 p.2.1 = true)) := by
  induction ps generalizing k with
  | nil => simp [plotAll]
  | cons p ps ih =>
    obtain ⟨x, y, bit⟩ := p
    obtain ⟨hx, hy⟩ := inside (x, y, bit) (by simp)
    rw [List.pairwise_cons] at distinct
    obtain ⟨ihp, ihh⟩ := ih (plot x y bit k) (fun p hp => inside p (List.mem_cons_of_mem _ hp)) distinct.2
    have other : ∀ q ∈ ps, pixel (plot x y bit k).grid q.1 q.2.1 = pixel k.grid q.1 q.2.1 := by
      intro q hq
      have := distinct.1 q hq
      rw [pixel_plot k hx hy]
      simp only [eq_comm] at this ⊢
      simp [this]
    constructor
    · intro a b
      show pixel (plotAll ps (plot x y bit k)).grid a b = _
      rw [ihp, pixel_plot k hx hy]
      have : (a, b, true) ∈ ps → ¬(a = x ∧ b = y) := by
        intro h e
        exact distinct.1 _ h ⟨e.1.symm, e.2.symm⟩
      rw [Bool.xor_assoc]
      congr 1
      by_cases e : a = x ∧ b = y
      · have h : (a, b, true) ∉ ps := fun h => this h e
        cases bit
        · simp [e.1, e.2] at h ⊢
        · simp [e.1, e.2] at h ⊢
          exact h
      · have h : (a, b, true) ∈ (x, y, bit) :: ps ↔ (a, b, true) ∈ ps := by
          rw [List.mem_cons, Prod.mk.injEq, Prod.mk.injEq]
          tauto
        simp only [h, e, decide_false, Bool.and_false, Bool.false_xor]
    · show (plotAll ps (plot x y bit k)).hit = _
      rw [ihh, plot_hit]
      have : (∃ p ∈ ps, p.2.2 = true ∧ pixel (plot x y bit k).grid p.1 p.2.1 = true) ↔
          ∃ p ∈ ps, p.2.2 = true ∧ pixel k.grid p.1 p.2.1 = true := by
        constructor <;> rintro ⟨p, hp, h1, h2⟩ <;> refine ⟨p, hp, h1, ?_⟩
        · rwa [other p hp] at h2
        · rwa [other p hp]
      simp only [this, List.exists_mem_cons_iff]
      simp [Bool.or_assoc]

/-- The sprite bits of some rows, as triples, in the order DRW takes them. -/
def spriteBits (x0 y0 : Byte) (rowByte : Nat → Byte) (rows : List Nat) : List (Nat × Nat × Bool) :=
  rows.flatMap fun row =>
    (List.range 8).map fun i => (pixelColumn x0 i, pixelRow y0 row, spriteBit (rowByte row) i)

theorem drawRows_eq_plotAll (x0 y0 : Byte) (rowByte : Nat → Byte) (rows : List Nat) (k : Canvas) :
    drawRows x0 y0 rowByte rows k = plotAll (spriteBits x0 y0 rowByte rows) k := by
  induction rows generalizing k with
  | nil => rfl
  | cons row rows ih =>
    rw [drawRows_cons, ih]
    simp [plotAll, spriteBits, drawRow, spriteWidth, List.foldl_append, List.foldl_map]

end Sys2Proof.Machine
end

