-- ==== Sys2Proof/Laws/Draw.lean ====
section
/-! SUPPORT. DRW's operands in numbers, and what drawing some rows does to every pixel and to the accumulator, said once.
spec/41_draw.md R47, R48, R49, R53; spec/20_memory.md R22. -/

namespace Sys2Proof.Machine

/-- The 17-bit sum does not wrap for any row of a sprite (20_memory.md R22). -/
theorem toNat_spriteAddr (base : Word) {row : Nat} (h : row ≤ 15) : (spriteAddr base row).toNat = base.toNat + row := by
  have := base.isLt
  simp [spriteAddr, BitVec.toNat_add]
  omega

/-- Rows of no bits draw nothing. -/
theorem drawRows_blank (x0 y0 : Byte) (rowByte : Nat → Byte) (rows : List Nat) (h : ∀ r ∈ rows, rowByte r = 0)
    (k : Canvas) : drawRows x0 y0 rowByte rows k = k := by
  induction rows generalizing k with
  | nil => rfl
  | cons r rows ih =>
    rw [drawRows_cons, h r (by simp), drawRow_zero, ih fun r hr => h r (List.mem_cons_of_mem _ hr)]

/-- The bits of a sprite's first 15 rows land on distinct pixels (41_draw.md R53). -/
theorem spritePixels_injective (x0 y0 : Byte) {row row' i i' : Nat} (h : row < 15) (h' : row' < 15) (hi : i < 8)
    (hi' : i' < 8) (hc : pixelColumn x0 i = pixelColumn x0 i') (hr : pixelRow y0 row = pixelRow y0 row') :
    row = row' ∧ i = i' := by
  simp only [pixelColumn, pixelRow, xWrap, yWrap] at hc hr
  omega

theorem mem_spriteBits {x0 y0 : Byte} {rowByte : Nat → Byte} {rows : List Nat} {p : Nat × Nat × Bool} :
    p ∈ spriteBits x0 y0 rowByte rows ↔
      ∃ row ∈ rows, ∃ i, i < 8 ∧ p = (pixelColumn x0 i, pixelRow y0 row, spriteBit (rowByte row) i) := by
  simp [spriteBits, List.mem_flatMap, eq_comm]

theorem spriteBits_inside (x0 y0 : Byte) (rowByte : Nat → Byte) (rows : List Nat) :
    ∀ p ∈ spriteBits x0 y0 rowByte rows, p.1 < 64 ∧ p.2.1 < 32 := by
  intro p hp
  obtain ⟨row, -, i, -, rfl⟩ := mem_spriteBits.1 hp
  exact ⟨pixelColumn_lt _ _, pixelRow_lt _ _⟩

theorem spriteBits_distinct (x0 y0 : Byte) (rowByte : Nat → Byte) (rows : List Nat) (bound : ∀ r ∈ rows, r < 15)
    (nodup : rows.Nodup) :
    (spriteBits x0 y0 rowByte rows).Pairwise fun p q => ¬(p.1 = q.1 ∧ p.2.1 = q.2.1) := by
  induction rows with
  | nil => simp [spriteBits]
  | cons r rows ih =>
    have e : spriteBits x0 y0 rowByte (r :: rows) =
        (List.range 8).map (fun i => (pixelColumn x0 i, pixelRow y0 r, spriteBit (rowByte r) i)) ++
          spriteBits x0 y0 rowByte rows := rfl
    have hr := bound r (by simp)
    rw [List.nodup_cons] at nodup
    rw [e, List.pairwise_append]
    refine ⟨?_, ih (fun r' h => bound r' (List.mem_cons_of_mem _ h)) nodup.2, ?_⟩
    · rw [List.pairwise_map]
      have : (List.range 8).Pairwise fun a b => a ≠ b ∧ a < 8 ∧ b < 8 := by decide
      refine this.imp ?_
      rintro a b ⟨ne, ha, hb⟩ ⟨hc, hrow⟩
      exact ne (spritePixels_injective x0 y0 hr hr ha hb hc hrow).2
    · rintro p hp q hq ⟨hc, hrow⟩
      obtain ⟨i, hi, rfl⟩ := List.mem_map.1 hp
      obtain ⟨r', hr', i', hi', rfl⟩ := mem_spriteBits.1 hq
      have same := spritePixels_injective x0 y0 hr (bound r' (List.mem_cons_of_mem _ hr'))
        (by simpa using hi) hi' hc hrow
      exact nodup.1 (same.1 ▸ hr')

/-- A sprite bit of 1 of one of the rows lands on the pixel (a, b). -/
def Lands (x0 y0 : Byte) (rowByte : Nat → Byte) (rows : List Nat) (a b : Nat) : Prop :=
  ∃ row ∈ rows, ∃ i, i < 8 ∧ a = pixelColumn x0 i ∧ b = pixelRow y0 row ∧ spriteBit (rowByte row) i = true

theorem mem_spriteBits_true {x0 y0 : Byte} {rowByte : Nat → Byte} {rows : List Nat} {a b : Nat} :
    (a, b, true) ∈ spriteBits x0 y0 rowByte rows ↔ Lands x0 y0 rowByte rows a b := by
  simp only [mem_spriteBits, Lands, Prod.mk.injEq, eq_comm (a := true)]

open Classical in
/-- Drawing distinct rows of a sprite: exactly the pixels a bit of 1 lands on are inverted. -/
theorem pixel_drawRows (x0 y0 : Byte) (rowByte : Nat → Byte) (rows : List Nat) (bound : ∀ r ∈ rows, r < 15)
    (nodup : rows.Nodup) (k : Canvas) (a b : Nat) :
    pixel (drawRows x0 y0 rowByte rows k).grid a b =
      (pixel k.grid a b ^^ decide (Lands x0 y0 rowByte rows a b)) := by
  rw [drawRows_eq_plotAll, (plotAll_distinct _ k (spriteBits_inside x0 y0 rowByte rows)
    (spriteBits_distinct x0 y0 rowByte rows bound nodup)).1]
  congr 1
  exact decide_eq_decide.2 mem_spriteBits_true

/-- Drawing distinct rows of a sprite: a collision is recorded if a bit of 1 lands on a pixel set before. -/
theorem hit_drawRows (x0 y0 : Byte) (rowByte : Nat → Byte) (rows : List Nat) (bound : ∀ r ∈ rows, r < 15)
    (nodup : rows.Nodup) (k : Canvas) :
    (drawRows x0 y0 rowByte rows k).hit = true ↔
      k.hit = true ∨ ∃ a b, Lands x0 y0 rowByte rows a b ∧ pixel k.grid a b = true := by
  rw [drawRows_eq_plotAll, (plotAll_distinct _ k (spriteBits_inside x0 y0 rowByte rows)
    (spriteBits_distinct x0 y0 rowByte rows bound nodup)).2, Bool.or_eq_true, decide_eq_true_eq]
  refine or_congr_right ⟨?_, ?_⟩
  · rintro ⟨⟨a, b, bit⟩, hp, rfl, hk⟩
    exact ⟨a, b, mem_spriteBits_true.1 hp, hk⟩
  · rintro ⟨a, b, hl, hk⟩
    exact ⟨(a, b, true), mem_spriteBits_true.2 hl, rfl, hk⟩

end Sys2Proof.Machine
end

