-- ==== Sys2Proof/Laws/Encoding.lean ====
section
/-! SUPPORT. Instruction words as numbers: their nibbles, their bytes, and the word put together from either.
spec/30_encoding.md R35, R36; spec/20_memory.md R23. -/

namespace Sys2Proof

theorem toNat_fieldG (w : Word) : (fieldG w).toNat = w.toNat / 4096 := by
  have := w.isLt
  rw [fieldG, BitVec.extractLsb'_toNat, Nat.shiftRight_eq_div_pow]
  omega

theorem toNat_fieldX (w : Word) : (fieldX w).toNat = w.toNat / 256 % 16 := by
  rw [fieldX, BitVec.extractLsb'_toNat, Nat.shiftRight_eq_div_pow]

theorem toNat_fieldY (w : Word) : (fieldY w).toNat = w.toNat / 16 % 16 := by
  rw [fieldY, BitVec.extractLsb'_toNat, Nat.shiftRight_eq_div_pow]

theorem toNat_fieldN (w : Word) : (fieldN w).toNat = w.toNat % 16 := by
  rw [fieldN, BitVec.extractLsb'_toNat, Nat.shiftRight_eq_div_pow]
  omega

theorem toNat_append_eq {m n : Nat} (a : BitVec m) (b : BitVec n) : (a ++ b).toNat = a.toNat * 2 ^ n + b.toNat := by
  rw [BitVec.toNat_append, ← Nat.shiftLeft_add_eq_or_of_lt b.isLt, Nat.shiftLeft_eq]

/-- The pattern `1101 xxxx yyyy nnnn` as a number. -/
theorem toNat_drwWord (x y : RegNum) (n : Nat) :
    (drwWord x y n).toNat = 13 * 4096 + x.val * 256 + y.val * 16 + n % 16 := by
  show ((0xD#4 ++ (BitVec.ofFin x : BitVec 4) ++ (BitVec.ofFin y : BitVec 4)) ++ BitVec.ofNat 4 n).toNat = _
  rw [toNat_append_eq, toNat_append_eq, toNat_append_eq]
  simp only [BitVec.toNat_ofNat, BitVec.toNat_ofFin]
  omega

/-- Under the DRW mask only the major group counts. -/
theorem drwMask_iff (w : Word) : w &&& drwMask = drwMatch ↔ fieldG w = 0xD#4 := by
  have g : fieldG (w &&& drwMask) = fieldG w := by
    apply BitVec.eq_of_getLsbD_eq
    intro j hj
    interval_cases j <;> simp [fieldG, drwMask]
  constructor
  · intro h
    rw [← g, h]
    rfl
  · intro h
    apply BitVec.eq_of_getLsbD_eq
    intro j hj
    have hb : ∀ k, k < 4 → (fieldG w).getLsbD k = w.getLsbD (12 + k) := by
      intro k hk
      simp [fieldG, hk]
    have h0 := hb 0 (by decide)
    have h1 := hb 1 (by decide)
    have h2 := hb 2 (by decide)
    have h3 := hb 3 (by decide)
    clear hb g
    simp only [h] at h0 h1 h2 h3
    interval_cases j <;> simp [drwMask, drwMatch]
    · simpa using h0.symm
    · simpa using h1.symm
    · simpa using h2.symm
    · simpa using h3.symm

/-- Big-endian bytes put together again (20_memory.md R23). -/
theorem wordOfBytes_bytes (w : Word) : wordOfBytes (highByte w) (lowByte w) = w := by
  apply BitVec.eq_of_toNat_eq
  show (highByte w ++ lowByte w).toNat = _
  rw [toNat_append_eq, highByte, lowByte, BitVec.extractLsb'_toNat, BitVec.extractLsb'_toNat, Nat.shiftRight_eq_div_pow]
  have := w.isLt
  omega

end Sys2Proof
end

