-- ==== Sys2Proof/Laws/Memory.lean ====
section
/-! SUPPORT. Memory: a read after a write, and every operation keeps the canonical form. spec/10_state.md R15;
spec/20_memory.md R21, R28. -/

namespace Sys2Proof.Machine

theorem Memory.wf_nil : Memory.wf [] := by simp [Memory.wf]

/-- A read after a write: the byte written, and every other byte as before. -/
theorem Memory.lookup_insert (m : Memory) (addr : Nat) (b : Byte) (a : Nat) :
    Memory.lookup (m.insert addr b) a = if a = addr then some b else m.lookup a := by
  induction m with
  | nil =>
    by_cases e : a = addr
    · simp [Memory.insert, Memory.lookup, e]
    · simp [Memory.insert, Memory.lookup, e, Ne.symm e]
  | cons c m ih =>
    obtain ⟨c, d⟩ := c
    by_cases h1 : addr < c
    · by_cases e : a = addr
      · simp [Memory.insert, Memory.lookup, h1, e]
      · simp [Memory.insert, Memory.lookup, h1, e, Ne.symm e]
    by_cases h2 : addr = c
    · subst h2
      by_cases e : a = addr
      · simp [Memory.insert, Memory.lookup, e]
      · simp [Memory.insert, Memory.lookup, e, Ne.symm e]
    · simp only [Memory.insert, h1, h2, if_false, Memory.lookup, ih]
      by_cases e : a = addr
      · subst e
        simp [Ne.symm h2]
      · simp [e]

theorem Memory.mem_insert {m : Memory} {addr : Nat} {b : Byte} {c : Host.Cell} (h : c ∈ m.insert addr b) :
    c = (addr, b) ∨ c ∈ m := by
  induction m with
  | nil => exact .inl (by simpa [Memory.insert] using h)
  | cons d m ih =>
    unfold Memory.insert at h
    split_ifs at h with h1 h2
    · simpa using h
    · rcases List.mem_cons.1 h with h | h
      · exact .inl h
      · exact .inr (List.mem_cons_of_mem _ h)
    · rcases List.mem_cons.1 h with h | h
      · exact .inr (by simp [h])
      · rcases ih h with h | h
        · exact .inl h
        · exact .inr (List.mem_cons_of_mem _ h)

theorem Memory.wf_insert {m : Memory} (h : m.wf) {addr : Nat} (ha : addr < memSize) (b : Byte) : (m.insert addr b).wf := by
  refine ⟨?_, fun c hc => ?_⟩
  · obtain ⟨h, -⟩ := h
    induction m with
    | nil => simp [Memory.insert]
    | cons d m ih =>
      rw [List.pairwise_cons] at h
      unfold Memory.insert
      split_ifs with h1 h2
      · refine List.pairwise_cons.2 ⟨fun c hc => ?_, List.pairwise_cons.2 h⟩
        rcases List.mem_cons.1 hc with hc | hc
        · subst hc
          exact h1
        · exact lt_trans h1 (h.1 c hc)
      · subst h2
        exact List.pairwise_cons.2 h
      · refine List.pairwise_cons.2 ⟨fun c hc => ?_, ih h.2⟩
        rcases Memory.mem_insert hc with hc | hc
        · subst hc
          simp only
          omega
        · exact h.1 c hc
  · rcases Memory.mem_insert hc with hc | hc
    · subst hc
      exact ha
    · exact h.2 c hc

theorem Memory.wf_store {m : Memory} (h : m.wf) (addr : Nat) (b : Byte) : (m.store addr b).wf := by
  unfold Memory.store
  split_ifs with ha
  · exact Memory.wf_insert h ha b
  · exact h

theorem Memory.wf_storeAll {m : Memory} (h : m.wf) (ws : List (Nat × Byte)) : (m.storeAll ws).wf := by
  induction ws generalizing m with
  | nil => exact h
  | cons w ws ih => exact ih (Memory.wf_store h w.1 w.2)

theorem Memory.wf_storeBytes {m : Memory} (h : m.wf) (addr : Nat) (bs : List Byte) : (m.storeBytes addr bs).wf := by
  induction bs generalizing m addr with
  | nil => exact h
  | cons b bs ih => exact ih (Memory.wf_store h addr b) (addr + 1)

/-- A read after a store inside memory. -/
theorem Memory.lookup_store (m : Memory) {addr : Nat} (ha : addr < memSize) (b : Byte) (a : Nat) :
    Memory.lookup (m.store addr b) a = if a = addr then some b else m.lookup a := by
  simp only [Memory.store, ha, if_true]
  exact Memory.lookup_insert m addr b a

/-- A store touches no other address, inside memory or not. -/
theorem Memory.lookup_store_ne (m : Memory) {addr a : Nat} (ne : a ≠ addr) (b : Byte) :
    Memory.lookup (m.store addr b) a = m.lookup a := by
  unfold Memory.store
  split_ifs with ha
  · simp [Memory.lookup_insert m addr b a, ne]
  · rfl

/-- Bytes stored from an address on leave every lower address alone. -/
theorem Memory.lookup_storeBytes_below (m : Memory) (bs : List Byte) {addr a : Nat} (h : a < addr) :
    Memory.lookup (m.storeBytes addr bs) a = m.lookup a := by
  induction bs generalizing m addr with
  | nil => rfl
  | cons b bs ih =>
    show Memory.lookup (Memory.storeBytes (m.store addr b) (addr + 1) bs) a = _
    rw [ih _ (by omega), Memory.lookup_store_ne m (by omega)]

/-- A read after bytes were stored at consecutive addresses inside memory. -/
theorem Memory.lookup_storeBytes (m : Memory) (bs : List Byte) (addr k : Nat) {b : Byte} (hk : bs[k]? = some b)
    (ha : addr + k < memSize) : Memory.lookup (m.storeBytes addr bs) (addr + k) = some b := by
  induction bs generalizing m addr k with
  | nil => simp at hk
  | cons c bs ih =>
    show Memory.lookup (Memory.storeBytes (m.store addr c) (addr + 1) bs) (addr + k) = some b
    cases k with
    | zero =>
      rw [Nat.add_zero] at ha ⊢
      rw [Memory.lookup_storeBytes_below _ _ (by omega), Memory.lookup_store m ha]
      simpa using hk
    | succ k =>
      rw [show addr + (k + 1) = addr + 1 + k by omega] at ha ⊢
      exact ih _ _ _ (by simpa using hk) ha

end Sys2Proof.Machine
end

