-- ==== Sys2Proof/Laws/PerInstr.lean ====
section
/-! SUPPORT. A law of every instruction as syntax: the encoder puts it into its own row of spec/opcode_table.json.
spec/30_encoding.md section 2, summary. -/

namespace Sys2Proof.Laws

/-- The mask and match of an instruction's row in spec/opcode_table.json, on the row's port. -/
def tableRow : Instr → PortWord × PortWord
  | .cls => (.e 0xFFFF#16, .e 0x00E0#16)
  | .drw _ _ _ => (.e 0xF000#16, .e 0xD000#16)
  | .snap => (.p 1#1, .p 0#1)
  | .commit => (.p 1#1, .p 1#1)

/-- The bits a mask selects, for two transactions on the same port. -/
def maskedBy : PortWord → PortWord → Option PortWord
  | .e m, .e w => some (.e (w &&& m))
  | .p m, .p c => some (.p (c &&& m))
  | _, _ => none

namespace TableRow

/-- The encoding of an instruction is on its row's port and has its row's match under its row's mask. -/
def Statement (i : Instr) : Prop := maskedBy (tableRow i).1 (encode i) = some (tableRow i).2

theorem cls : Statement .cls := rfl

theorem drw (x y : RegNum) (n : Nat) : Statement (.drw x y n) := by
  have h : drwWord x y n &&& 0xF000#16 = 0xD000#16 := by
    refine (drwMask_iff _).2 (BitVec.eq_of_toNat_eq ?_)
    rw [toNat_fieldG, toNat_drwWord, BitVec.toNat_ofNat]
    omega
  simp [Statement, maskedBy, tableRow, encode, h]

theorem snap : Statement .snap := rfl

theorem commit : Statement .commit := rfl

end TableRow

end Sys2Proof.Laws
end

