-- ==== Sys2Proof/Laws/Sets.lean ====
section
/-! SUPPORT. The host's two sets of numbers, the breakpoints and the keys: their canonical form is kept, and membership. -/

namespace Sys2Proof.Machine

theorem mem_insertSorted {n a : Nat} {ms : List Nat} : a ∈ insertSorted n ms ↔ a = n ∨ a ∈ ms := by
  induction ms with
  | nil => simp [insertSorted]
  | cons m ms ih =>
    unfold insertSorted
    split_ifs with h1 h2
    · simp
    · subst h2
      simp
    · simp only [List.mem_cons, ih]
      tauto

theorem sorted_insertSorted {ms : List Nat} (h : ms.Pairwise (· < ·)) (n : Nat) : (insertSorted n ms).Pairwise (· < ·) := by
  induction ms with
  | nil => simp [insertSorted]
  | cons m ms ih =>
    have h' := List.pairwise_cons.1 h
    unfold insertSorted
    split_ifs with h1 h2
    · refine List.pairwise_cons.2 ⟨fun a ha => ?_, h⟩
      rcases List.mem_cons.1 ha with ha | ha
      · omega
      · exact lt_trans h1 (h'.1 a ha)
    · exact h
    · refine List.pairwise_cons.2 ⟨fun a ha => ?_, ih h'.2⟩
      rcases mem_insertSorted.1 ha with ha | ha
      · omega
      · exact h'.1 a ha

theorem sorted_removeFrom {ms : List Nat} (h : ms.Pairwise (· < ·)) (n : Nat) : (removeFrom n ms).Pairwise (· < ·) :=
  h.filter _

theorem mem_removeFrom {n a : Nat} {ms : List Nat} : a ∈ removeFrom n ms ↔ a ∈ ms ∧ a ≠ n := by
  simp [removeFrom]

end Sys2Proof.Machine
end

