-- ==== Sys2Proof/Laws/State.lean ====
section
/-! SUPPORT. The small lemmas of State's operations: one for each field and operation, so that no proof unfolds a record
update. -/

namespace Sys2Proof.Machine

variable (s : State)

@[simp] theorem State.emit_live (ds : List Diag) : (s.emit ds).live = s.live := rfl
@[simp] theorem State.emit_pres (ds : List Diag) : (s.emit ds).pres = s.pres := rfl
@[simp] theorem State.emit_dirty (ds : List Diag) : (s.emit ds).dirty = s.dirty := rfl
@[simp] theorem State.emit_v (ds : List Diag) : (s.emit ds).v = s.v := rfl
@[simp] theorem State.emit_index (ds : List Diag) : (s.emit ds).index = s.index := rfl
@[simp] theorem State.emit_mem (ds : List Diag) : (s.emit ds).mem = s.mem := rfl
@[simp] theorem State.emit_pc (ds : List Diag) : (s.emit ds).pc = s.pc := rfl
@[simp] theorem State.emit_sp (ds : List Diag) : (s.emit ds).sp = s.sp := rfl
@[simp] theorem State.emit_stack (ds : List Diag) : (s.emit ds).stack = s.stack := rfl
@[simp] theorem State.emit_delay (ds : List Diag) : (s.emit ds).delay = s.delay := rfl
@[simp] theorem State.emit_sound (ds : List Diag) : (s.emit ds).sound = s.sound := rfl
@[simp] theorem State.emit_keys (ds : List Diag) : (s.emit ds).keys = s.keys := rfl
@[simp] theorem State.emit_loaded (ds : List Diag) : (s.emit ds).loaded = s.loaded := rfl
@[simp] theorem State.emit_terminal (ds : List Diag) : (s.emit ds).terminal = s.terminal := rfl
@[simp] theorem State.emit_suspended (ds : List Diag) : (s.emit ds).suspended = s.suspended := rfl
@[simp] theorem State.emit_breakpoints (ds : List Diag) : (s.emit ds).breakpoints = s.breakpoints := rfl
@[simp] theorem State.emit_elapsed (ds : List Diag) : (s.emit ds).elapsed = s.elapsed := rfl
@[simp] theorem State.emit_diag (ds : List Diag) : (s.emit ds).diag = s.diag ++ ds := rfl
@[simp] theorem State.emit_snaps (ds : List Diag) : (s.emit ds).snaps = s.snaps := rfl
@[simp] theorem State.emit_agenda (ds : List Diag) : (s.emit ds).agenda = s.agenda := rfl
@[simp] theorem State.emit_launches (ds : List Diag) : (s.emit ds).launches = s.launches := rfl
@[simp] theorem State.emit_draws (ds : List Diag) : (s.emit ds).draws = s.draws := rfl

@[simp] theorem State.setReg_live (r : RegNum) (b : Byte) : (s.setReg r b).live = s.live := rfl
@[simp] theorem State.setReg_pres (r : RegNum) (b : Byte) : (s.setReg r b).pres = s.pres := rfl
@[simp] theorem State.setReg_dirty (r : RegNum) (b : Byte) : (s.setReg r b).dirty = s.dirty := rfl
@[simp] theorem State.setReg_v (r : RegNum) (b : Byte) : (s.setReg r b).v = s.v.set r b := rfl
@[simp] theorem State.setReg_index (r : RegNum) (b : Byte) : (s.setReg r b).index = s.index := rfl
@[simp] theorem State.setReg_mem (r : RegNum) (b : Byte) : (s.setReg r b).mem = s.mem := rfl
@[simp] theorem State.setReg_pc (r : RegNum) (b : Byte) : (s.setReg r b).pc = s.pc := rfl
@[simp] theorem State.setReg_sp (r : RegNum) (b : Byte) : (s.setReg r b).sp = s.sp := rfl
@[simp] theorem State.setReg_stack (r : RegNum) (b : Byte) : (s.setReg r b).stack = s.stack := rfl
@[simp] theorem State.setReg_delay (r : RegNum) (b : Byte) : (s.setReg r b).delay = s.delay := rfl
@[simp] theorem State.setReg_sound (r : RegNum) (b : Byte) : (s.setReg r b).sound = s.sound := rfl
@[simp] theorem State.setReg_keys (r : RegNum) (b : Byte) : (s.setReg r b).keys = s.keys := rfl
@[simp] theorem State.setReg_loaded (r : RegNum) (b : Byte) : (s.setReg r b).loaded = s.loaded := rfl
@[simp] theorem State.setReg_terminal (r : RegNum) (b : Byte) : (s.setReg r b).terminal = s.terminal := rfl
@[simp] theorem State.setReg_suspended (r : RegNum) (b : Byte) : (s.setReg r b).suspended = s.suspended := rfl
@[simp] theorem State.setReg_breakpoints (r : RegNum) (b : Byte) : (s.setReg r b).breakpoints = s.breakpoints := rfl
@[simp] theorem State.setReg_elapsed (r : RegNum) (b : Byte) : (s.setReg r b).elapsed = s.elapsed := rfl
@[simp] theorem State.setReg_diag (r : RegNum) (b : Byte) : (s.setReg r b).diag = s.diag := rfl
@[simp] theorem State.setReg_snaps (r : RegNum) (b : Byte) : (s.setReg r b).snaps = s.snaps := rfl
@[simp] theorem State.setReg_agenda (r : RegNum) (b : Byte) : (s.setReg r b).agenda = s.agenda := rfl
@[simp] theorem State.setReg_launches (r : RegNum) (b : Byte) : (s.setReg r b).launches = s.launches := rfl
@[simp] theorem State.setReg_draws (r : RegNum) (b : Byte) : (s.setReg r b).draws = s.draws := rfl

@[simp] theorem State.clearGrids_live : (s.clearGrids).live = zeroGrid := rfl
@[simp] theorem State.clearGrids_pres : (s.clearGrids).pres = zeroGrid := rfl
@[simp] theorem State.clearGrids_dirty : (s.clearGrids).dirty = false := rfl
@[simp] theorem State.clearGrids_v : (s.clearGrids).v = s.v := rfl
@[simp] theorem State.clearGrids_index : (s.clearGrids).index = s.index := rfl
@[simp] theorem State.clearGrids_mem : (s.clearGrids).mem = s.mem := rfl
@[simp] theorem State.clearGrids_pc : (s.clearGrids).pc = s.pc := rfl
@[simp] theorem State.clearGrids_sp : (s.clearGrids).sp = s.sp := rfl
@[simp] theorem State.clearGrids_stack : (s.clearGrids).stack = s.stack := rfl
@[simp] theorem State.clearGrids_delay : (s.clearGrids).delay = s.delay := rfl
@[simp] theorem State.clearGrids_sound : (s.clearGrids).sound = s.sound := rfl
@[simp] theorem State.clearGrids_keys : (s.clearGrids).keys = s.keys := rfl
@[simp] theorem State.clearGrids_loaded : (s.clearGrids).loaded = s.loaded := rfl
@[simp] theorem State.clearGrids_terminal : (s.clearGrids).terminal = s.terminal := rfl
@[simp] theorem State.clearGrids_suspended : (s.clearGrids).suspended = s.suspended := rfl
@[simp] theorem State.clearGrids_breakpoints : (s.clearGrids).breakpoints = s.breakpoints := rfl
@[simp] theorem State.clearGrids_elapsed : (s.clearGrids).elapsed = s.elapsed := rfl
@[simp] theorem State.clearGrids_diag : (s.clearGrids).diag = s.diag := rfl
@[simp] theorem State.clearGrids_snaps : (s.clearGrids).snaps = s.snaps := rfl
@[simp] theorem State.clearGrids_agenda : (s.clearGrids).agenda = s.agenda := rfl
@[simp] theorem State.clearGrids_launches : (s.clearGrids).launches = s.launches := rfl
@[simp] theorem State.clearGrids_draws : (s.clearGrids).draws = s.draws := rfl

@[simp] theorem State.setLive_live (g : Grid) : (s.setLive g).live = g := rfl
@[simp] theorem State.setLive_pres (g : Grid) : (s.setLive g).pres = s.pres := rfl
@[simp] theorem State.setLive_dirty (g : Grid) : (s.setLive g).dirty = true := rfl
@[simp] theorem State.setLive_v (g : Grid) : (s.setLive g).v = s.v := rfl
@[simp] theorem State.setLive_index (g : Grid) : (s.setLive g).index = s.index := rfl
@[simp] theorem State.setLive_mem (g : Grid) : (s.setLive g).mem = s.mem := rfl
@[simp] theorem State.setLive_pc (g : Grid) : (s.setLive g).pc = s.pc := rfl
@[simp] theorem State.setLive_sp (g : Grid) : (s.setLive g).sp = s.sp := rfl
@[simp] theorem State.setLive_stack (g : Grid) : (s.setLive g).stack = s.stack := rfl
@[simp] theorem State.setLive_delay (g : Grid) : (s.setLive g).delay = s.delay := rfl
@[simp] theorem State.setLive_sound (g : Grid) : (s.setLive g).sound = s.sound := rfl
@[simp] theorem State.setLive_keys (g : Grid) : (s.setLive g).keys = s.keys := rfl
@[simp] theorem State.setLive_loaded (g : Grid) : (s.setLive g).loaded = s.loaded := rfl
@[simp] theorem State.setLive_terminal (g : Grid) : (s.setLive g).terminal = s.terminal := rfl
@[simp] theorem State.setLive_suspended (g : Grid) : (s.setLive g).suspended = s.suspended := rfl
@[simp] theorem State.setLive_breakpoints (g : Grid) : (s.setLive g).breakpoints = s.breakpoints := rfl
@[simp] theorem State.setLive_elapsed (g : Grid) : (s.setLive g).elapsed = s.elapsed := rfl
@[simp] theorem State.setLive_diag (g : Grid) : (s.setLive g).diag = s.diag := rfl
@[simp] theorem State.setLive_snaps (g : Grid) : (s.setLive g).snaps = s.snaps := rfl
@[simp] theorem State.setLive_agenda (g : Grid) : (s.setLive g).agenda = s.agenda := rfl
@[simp] theorem State.setLive_launches (g : Grid) : (s.setLive g).launches = s.launches := rfl
@[simp] theorem State.setLive_draws (g : Grid) : (s.setLive g).draws = s.draws := rfl

@[simp] theorem State.copyGrid_live : (s.copyGrid).live = s.live := rfl
@[simp] theorem State.copyGrid_pres : (s.copyGrid).pres = s.live := rfl
@[simp] theorem State.copyGrid_dirty : (s.copyGrid).dirty = false := rfl
@[simp] theorem State.copyGrid_v : (s.copyGrid).v = s.v := rfl
@[simp] theorem State.copyGrid_index : (s.copyGrid).index = s.index := rfl
@[simp] theorem State.copyGrid_mem : (s.copyGrid).mem = s.mem := rfl
@[simp] theorem State.copyGrid_pc : (s.copyGrid).pc = s.pc := rfl
@[simp] theorem State.copyGrid_sp : (s.copyGrid).sp = s.sp := rfl
@[simp] theorem State.copyGrid_stack : (s.copyGrid).stack = s.stack := rfl
@[simp] theorem State.copyGrid_delay : (s.copyGrid).delay = s.delay := rfl
@[simp] theorem State.copyGrid_sound : (s.copyGrid).sound = s.sound := rfl
@[simp] theorem State.copyGrid_keys : (s.copyGrid).keys = s.keys := rfl
@[simp] theorem State.copyGrid_loaded : (s.copyGrid).loaded = s.loaded := rfl
@[simp] theorem State.copyGrid_terminal : (s.copyGrid).terminal = s.terminal := rfl
@[simp] theorem State.copyGrid_suspended : (s.copyGrid).suspended = s.suspended := rfl
@[simp] theorem State.copyGrid_breakpoints : (s.copyGrid).breakpoints = s.breakpoints := rfl
@[simp] theorem State.copyGrid_elapsed : (s.copyGrid).elapsed = s.elapsed := rfl
@[simp] theorem State.copyGrid_diag : (s.copyGrid).diag = s.diag := rfl
@[simp] theorem State.copyGrid_snaps : (s.copyGrid).snaps = s.snaps := rfl
@[simp] theorem State.copyGrid_agenda : (s.copyGrid).agenda = s.agenda := rfl
@[simp] theorem State.copyGrid_launches : (s.copyGrid).launches = s.launches := rfl
@[simp] theorem State.copyGrid_draws : (s.copyGrid).draws = s.draws := rfl

@[simp] theorem State.returnSnap_live : (s.returnSnap).live = s.live := rfl
@[simp] theorem State.returnSnap_pres : (s.returnSnap).pres = s.pres := rfl
@[simp] theorem State.returnSnap_dirty : (s.returnSnap).dirty = s.dirty := rfl
@[simp] theorem State.returnSnap_v : (s.returnSnap).v = s.v := rfl
@[simp] theorem State.returnSnap_index : (s.returnSnap).index = s.index := rfl
@[simp] theorem State.returnSnap_mem : (s.returnSnap).mem = s.mem := rfl
@[simp] theorem State.returnSnap_pc : (s.returnSnap).pc = s.pc := rfl
@[simp] theorem State.returnSnap_sp : (s.returnSnap).sp = s.sp := rfl
@[simp] theorem State.returnSnap_stack : (s.returnSnap).stack = s.stack := rfl
@[simp] theorem State.returnSnap_delay : (s.returnSnap).delay = s.delay := rfl
@[simp] theorem State.returnSnap_sound : (s.returnSnap).sound = s.sound := rfl
@[simp] theorem State.returnSnap_keys : (s.returnSnap).keys = s.keys := rfl
@[simp] theorem State.returnSnap_loaded : (s.returnSnap).loaded = s.loaded := rfl
@[simp] theorem State.returnSnap_terminal : (s.returnSnap).terminal = s.terminal := rfl
@[simp] theorem State.returnSnap_suspended : (s.returnSnap).suspended = s.suspended := rfl
@[simp] theorem State.returnSnap_breakpoints : (s.returnSnap).breakpoints = s.breakpoints := rfl
@[simp] theorem State.returnSnap_elapsed : (s.returnSnap).elapsed = s.elapsed := rfl
@[simp] theorem State.returnSnap_diag : (s.returnSnap).diag = s.diag := rfl
@[simp] theorem State.returnSnap_snaps : (s.returnSnap).snaps = s.snaps ++ [s.pres] := rfl
@[simp] theorem State.returnSnap_agenda : (s.returnSnap).agenda = s.agenda := rfl
@[simp] theorem State.returnSnap_launches : (s.returnSnap).launches = s.launches := rfl
@[simp] theorem State.returnSnap_draws : (s.returnSnap).draws = s.draws := rfl

@[simp] theorem State.suspendAt_live (line : Nat) : (s.suspendAt line).live = s.live := rfl
@[simp] theorem State.suspendAt_pres (line : Nat) : (s.suspendAt line).pres = s.pres := rfl
@[simp] theorem State.suspendAt_dirty (line : Nat) : (s.suspendAt line).dirty = s.dirty := rfl
@[simp] theorem State.suspendAt_v (line : Nat) : (s.suspendAt line).v = s.v := rfl
@[simp] theorem State.suspendAt_index (line : Nat) : (s.suspendAt line).index = s.index := rfl
@[simp] theorem State.suspendAt_mem (line : Nat) : (s.suspendAt line).mem = s.mem := rfl
@[simp] theorem State.suspendAt_pc (line : Nat) : (s.suspendAt line).pc = s.pc := rfl
@[simp] theorem State.suspendAt_sp (line : Nat) : (s.suspendAt line).sp = s.sp := rfl
@[simp] theorem State.suspendAt_stack (line : Nat) : (s.suspendAt line).stack = s.stack := rfl
@[simp] theorem State.suspendAt_delay (line : Nat) : (s.suspendAt line).delay = s.delay := rfl
@[simp] theorem State.suspendAt_sound (line : Nat) : (s.suspendAt line).sound = s.sound := rfl
@[simp] theorem State.suspendAt_keys (line : Nat) : (s.suspendAt line).keys = s.keys := rfl
@[simp] theorem State.suspendAt_loaded (line : Nat) : (s.suspendAt line).loaded = s.loaded := rfl
@[simp] theorem State.suspendAt_terminal (line : Nat) : (s.suspendAt line).terminal = s.terminal := rfl
@[simp] theorem State.suspendAt_suspended (line : Nat) : (s.suspendAt line).suspended = some line := rfl
@[simp] theorem State.suspendAt_breakpoints (line : Nat) : (s.suspendAt line).breakpoints = s.breakpoints := rfl
@[simp] theorem State.suspendAt_elapsed (line : Nat) : (s.suspendAt line).elapsed = s.elapsed := rfl
@[simp] theorem State.suspendAt_diag (line : Nat) : (s.suspendAt line).diag = s.diag := rfl
@[simp] theorem State.suspendAt_snaps (line : Nat) : (s.suspendAt line).snaps = s.snaps := rfl
@[simp] theorem State.suspendAt_agenda (line : Nat) : (s.suspendAt line).agenda = s.agenda := rfl
@[simp] theorem State.suspendAt_launches (line : Nat) : (s.suspendAt line).launches = s.launches := rfl
@[simp] theorem State.suspendAt_draws (line : Nat) : (s.suspendAt line).draws = s.draws := rfl

@[simp] theorem State.resume_live : (s.resume).live = s.live := rfl
@[simp] theorem State.resume_pres : (s.resume).pres = s.pres := rfl
@[simp] theorem State.resume_dirty : (s.resume).dirty = s.dirty := rfl
@[simp] theorem State.resume_v : (s.resume).v = s.v := rfl
@[simp] theorem State.resume_index : (s.resume).index = s.index := rfl
@[simp] theorem State.resume_mem : (s.resume).mem = s.mem := rfl
@[simp] theorem State.resume_pc : (s.resume).pc = s.pc := rfl
@[simp] theorem State.resume_sp : (s.resume).sp = s.sp := rfl
@[simp] theorem State.resume_stack : (s.resume).stack = s.stack := rfl
@[simp] theorem State.resume_delay : (s.resume).delay = decay s.delay s.elapsed := rfl
@[simp] theorem State.resume_sound : (s.resume).sound = decay s.sound s.elapsed := rfl
@[simp] theorem State.resume_keys : (s.resume).keys = s.keys := rfl
@[simp] theorem State.resume_loaded : (s.resume).loaded = s.loaded := rfl
@[simp] theorem State.resume_terminal : (s.resume).terminal = s.terminal := rfl
@[simp] theorem State.resume_suspended : (s.resume).suspended = none := rfl
@[simp] theorem State.resume_breakpoints : (s.resume).breakpoints = s.breakpoints := rfl
@[simp] theorem State.resume_elapsed : (s.resume).elapsed = 0 := rfl
@[simp] theorem State.resume_diag : (s.resume).diag = s.diag := rfl
@[simp] theorem State.resume_snaps : (s.resume).snaps = s.snaps := rfl
@[simp] theorem State.resume_agenda : (s.resume).agenda = s.agenda := rfl
@[simp] theorem State.resume_launches : (s.resume).launches = s.launches := rfl
@[simp] theorem State.resume_draws : (s.resume).draws = s.draws := rfl

@[simp] theorem State.applyHost_live (c : HostChange) : (s.applyHost c).live = s.live := rfl
@[simp] theorem State.applyHost_pres (c : HostChange) : (s.applyHost c).pres = s.pres := rfl
@[simp] theorem State.applyHost_dirty (c : HostChange) : (s.applyHost c).dirty = s.dirty := rfl
@[simp] theorem State.applyHost_v (c : HostChange) : (s.applyHost c).v = c.v := rfl
@[simp] theorem State.applyHost_index (c : HostChange) : (s.applyHost c).index = c.index := rfl
@[simp] theorem State.applyHost_mem (c : HostChange) : (s.applyHost c).mem = s.mem.storeAll c.writes := rfl
@[simp] theorem State.applyHost_pc (c : HostChange) : (s.applyHost c).pc = c.pc := rfl
@[simp] theorem State.applyHost_sp (c : HostChange) : (s.applyHost c).sp = stackDepth s.sp c.stackUse := rfl
@[simp] theorem State.applyHost_stack (c : HostChange) : (s.applyHost c).stack = c.stack := rfl
@[simp] theorem State.applyHost_delay (c : HostChange) : (s.applyHost c).delay = c.delay := rfl
@[simp] theorem State.applyHost_sound (c : HostChange) : (s.applyHost c).sound = c.sound := rfl
@[simp] theorem State.applyHost_keys (c : HostChange) : (s.applyHost c).keys = s.keys := rfl
@[simp] theorem State.applyHost_loaded (c : HostChange) : (s.applyHost c).loaded = s.loaded := rfl
@[simp] theorem State.applyHost_terminal (c : HostChange) : (s.applyHost c).terminal = s.terminal := rfl
@[simp] theorem State.applyHost_suspended (c : HostChange) : (s.applyHost c).suspended = s.suspended := rfl
@[simp] theorem State.applyHost_breakpoints (c : HostChange) : (s.applyHost c).breakpoints = s.breakpoints := rfl
@[simp] theorem State.applyHost_elapsed (c : HostChange) : (s.applyHost c).elapsed = s.elapsed := rfl
@[simp] theorem State.applyHost_diag (c : HostChange) : (s.applyHost c).diag = s.diag := rfl
@[simp] theorem State.applyHost_snaps (c : HostChange) : (s.applyHost c).snaps = s.snaps := rfl
@[simp] theorem State.applyHost_agenda (c : HostChange) : (s.applyHost c).agenda = s.agenda := rfl
@[simp] theorem State.applyHost_launches (c : HostChange) : (s.applyHost c).launches = s.launches := rfl
@[simp] theorem State.applyHost_draws (c : HostChange) : (s.applyHost c).draws = s.draws + 1 := rfl

@[simp] theorem State.popRequest_live : (s.popRequest).live = s.live := rfl
@[simp] theorem State.popRequest_pres : (s.popRequest).pres = s.pres := rfl
@[simp] theorem State.popRequest_dirty : (s.popRequest).dirty = s.dirty := rfl
@[simp] theorem State.popRequest_v : (s.popRequest).v = s.v := rfl
@[simp] theorem State.popRequest_index : (s.popRequest).index = s.index := rfl
@[simp] theorem State.popRequest_mem : (s.popRequest).mem = s.mem := rfl
@[simp] theorem State.popRequest_pc : (s.popRequest).pc = s.pc := rfl
@[simp] theorem State.popRequest_sp : (s.popRequest).sp = s.sp := rfl
@[simp] theorem State.popRequest_stack : (s.popRequest).stack = s.stack := rfl
@[simp] theorem State.popRequest_delay : (s.popRequest).delay = s.delay := rfl
@[simp] theorem State.popRequest_sound : (s.popRequest).sound = s.sound := rfl
@[simp] theorem State.popRequest_keys : (s.popRequest).keys = s.keys := rfl
@[simp] theorem State.popRequest_loaded : (s.popRequest).loaded = s.loaded := rfl
@[simp] theorem State.popRequest_terminal : (s.popRequest).terminal = s.terminal := rfl
@[simp] theorem State.popRequest_suspended : (s.popRequest).suspended = s.suspended := rfl
@[simp] theorem State.popRequest_breakpoints : (s.popRequest).breakpoints = s.breakpoints := rfl
@[simp] theorem State.popRequest_elapsed : (s.popRequest).elapsed = s.elapsed := rfl
@[simp] theorem State.popRequest_diag : (s.popRequest).diag = s.diag := rfl
@[simp] theorem State.popRequest_snaps : (s.popRequest).snaps = s.snaps := rfl
@[simp] theorem State.popRequest_agenda : (s.popRequest).agenda = s.agenda.tail := rfl
@[simp] theorem State.popRequest_launches : (s.popRequest).launches = s.launches := rfl
@[simp] theorem State.popRequest_draws : (s.popRequest).draws = s.draws := rfl

@[simp] theorem State.execSide_live : (s.execSide).live = s.live := rfl
@[simp] theorem State.execSide_pres : (s.execSide).pres = zeroGrid := rfl
@[simp] theorem State.execSide_dirty : (s.execSide).dirty = false := rfl
@[simp] theorem State.execSide_v : (s.execSide).v = s.v := rfl
@[simp] theorem State.execSide_index : (s.execSide).index = s.index := rfl
@[simp] theorem State.execSide_mem : (s.execSide).mem = s.mem := rfl
@[simp] theorem State.execSide_pc : (s.execSide).pc = s.pc := rfl
@[simp] theorem State.execSide_sp : (s.execSide).sp = s.sp := rfl
@[simp] theorem State.execSide_stack : (s.execSide).stack = s.stack := rfl
@[simp] theorem State.execSide_delay : (s.execSide).delay = s.delay := rfl
@[simp] theorem State.execSide_sound : (s.execSide).sound = s.sound := rfl
@[simp] theorem State.execSide_keys : (s.execSide).keys = s.keys := rfl
@[simp] theorem State.execSide_loaded : (s.execSide).loaded = s.loaded := rfl
@[simp] theorem State.execSide_terminal : (s.execSide).terminal = s.terminal := rfl
@[simp] theorem State.execSide_suspended : (s.execSide).suspended = s.suspended := rfl
@[simp] theorem State.execSide_breakpoints : (s.execSide).breakpoints = s.breakpoints := rfl
@[simp] theorem State.execSide_elapsed : (s.execSide).elapsed = s.elapsed := rfl
@[simp] theorem State.execSide_diag : (s.execSide).diag = s.diag := rfl
@[simp] theorem State.execSide_snaps : (s.execSide).snaps = [] := rfl
@[simp] theorem State.execSide_agenda : (s.execSide).agenda = [] := rfl
@[simp] theorem State.execSide_launches : (s.execSide).launches = s.launches := rfl
@[simp] theorem State.execSide_draws : (s.execSide).draws = s.draws := rfl

end Sys2Proof.Machine
end

