-- ==== Sys2Proof/Laws/Step.lean ====
section
/-! SUPPORT. What a step can do, said once: the next state of each operation, and the cases of a fetched word, of
`step()`, of a request and of a step. spec/00_scope.md R4; spec/20_memory.md R30. -/

namespace Sys2Proof.Machine

/-- The next state of each operation of the block. -/
def execNext : Instr → State → State
  | .cls, s => s.clearGrids
  | .drw x y n, s =>
    ((s.emit (s.rowDiags n)).setLive (s.drawn x y n).grid).setReg flagReg (flagByte (s.drawn x y n).hit)
  | .snap, s => s.returnSnap
  | .commit, s => if s.dirty then s.copyGrid else s

theorem exec_eq (i : Instr) (s : State) : exec i s = .next (execNext i s) := by cases i <;> rfl

/-- The decoder of port E answers CLS, a DRW with a height of at most 15, or that the word is not the block's. -/
theorem decodeE_cases (w : Word) :
    (w = clsMatch ∧ decodeE w = .ok .cls) ∨
    (w &&& drwMask = drwMatch ∧
      decodeE w = .ok (.drw (fieldX w).toFin (fieldY w).toFin (fieldN w).toNat) ∧ (fieldN w).toNat ≤ 15) ∨
    (w ≠ clsMatch ∧ w &&& drwMask ≠ drwMatch ∧ decodeE w = .error (.notTheBlocks w)) := by
  have mask : w &&& clsMask = w := by
    show w &&& BitVec.allOnes 16 = w
    exact BitVec.and_allOnes
  by_cases h : w = clsMatch
  · exact .inl ⟨h, by simp only [decodeE, mask]; rw [if_pos h]⟩
  · by_cases h' : w &&& drwMask = drwMatch
    · exact .inr (.inl ⟨h', by simp [decodeE, mask, h, h'], by have := (fieldN w).isLt; omega⟩)
    · exact .inr (.inr ⟨h, h', by simp [decodeE, mask, h, h']⟩)

/-- A use of the call stack stops for one of two reasons, each at an end of the stack. -/
theorem stackFault_some {sp : Nat} {u : StackUse} {f : Fault} (h : stackFault sp u = some f) :
    (f = .callStackOverflow ∧ 16 ≤ sp) ∨ (f = .callStackUnderflow ∧ sp = 0) := by
  cases u with
  | keep => cases h
  | push =>
    by_cases hs : 16 ≤ sp <;> simp [stackFault, Config.stackLevels, hs] at h
    exact .inl ⟨h.symm, hs⟩
  | pop =>
    by_cases h0 : sp = 0
    · simp [stackFault, h0] at h
      exact .inr ⟨h.symm, h0⟩
    · by_cases hs : 16 < sp <;> simp [stackFault, Config.stackLevels, h0, hs] at h
      exact .inl ⟨h.symm, by omega⟩

/-- A use of the call stack that does not stop keeps within its levels. -/
theorem stackDepth_le {sp : Nat} {u : StackUse} (h : stackFault sp u = none) (hs : sp ≤ 16) : stackDepth sp u ≤ 16 := by
  cases u with
  | keep => exact hs
  | push =>
    by_cases h' : 16 ≤ sp <;> simp [stackFault, Config.stackLevels, h'] at h
    show sp + 1 ≤ 16
    omega
  | pop =>
    show sp - 1 ≤ 16
    omega

/-- A host instruction makes its change, or stops at an end of the call stack. -/
theorem State.runHost_cases (s : State) (c : HostChange) :
    (stackFault s.sp c.stackUse = none ∧ s.runHost c = .next (s.applyHost c)) ∨
    (s.runHost c = .fault .callStackOverflow ∧ 16 ≤ s.sp) ∨ (s.runHost c = .fault .callStackUnderflow ∧ s.sp = 0) := by
  cases h : stackFault s.sp c.stackUse with
  | none => exact .inl ⟨rfl, by simp only [State.runHost, h]⟩
  | some f =>
    rcases stackFault_some h with ⟨rfl, hs⟩ | ⟨rfl, hs⟩
    · exact .inr (.inl ⟨by simp only [State.runHost, h], hs⟩)
    · exact .inr (.inr ⟨by simp only [State.runHost, h], hs⟩)

/-- What the execution side does with a word it fetched: the block's operation, the host's own instruction, or nothing. -/
theorem dispatchWord_cases (w : Word) (s : State) :
    (decodeE w = .ok .cls ∧ dispatchWord w s = .next s.clearGrids) ∨
    (∃ x y n, n ≤ 15 ∧ decodeE w = .ok (.drw x y n) ∧ dispatchWord w s = .next (execNext (.drw x y n) s)) ∨
    (decodeE w = .error (.notTheBlocks w) ∧ Config.hostKnows w = true ∧
      dispatchWord w s = s.runHost (Config.hostChange s.draws)) ∨
    (decodeE w = .error (.notTheBlocks w) ∧ Config.hostKnows w = false ∧ dispatchWord w s = .next s) := by
  rcases decodeE_cases w with ⟨-, h⟩ | ⟨-, h, hn⟩ | ⟨-, -, h⟩
  · exact .inl ⟨h, by simp [dispatchWord, h, exec_eq, execNext]⟩
  · refine .inr (.inl ⟨(fieldX w).toFin, (fieldY w).toFin, _, hn, h, ?_⟩)
    simp [dispatchWord, h, exec_eq]
  · cases hk : Config.hostKnows w
    · exact .inr (.inr (.inr ⟨h, rfl, by simp [dispatchWord, h, State.hostWord, hk]⟩))
    · exact .inr (.inr (.inl ⟨h, rfl, by simp [dispatchWord, h, State.hostWord, hk, State.hostInstruction]⟩))

/-- The next states of a fetched word. -/
theorem dispatchWord_next {w : Word} {s t : State} (e : dispatchWord w s = .next t) :
    (decodeE w = .ok .cls ∧ t = s.clearGrids) ∨
    (∃ x y n, n ≤ 15 ∧ decodeE w = .ok (.drw x y n) ∧ t = execNext (.drw x y n) s) ∨
    (∃ c, stackFault s.sp c.stackUse = none ∧ t = s.applyHost c) ∨ t = s := by
  rcases dispatchWord_cases w s with ⟨hd, h⟩ | ⟨x, y, n, hn, hd, h⟩ | ⟨-, -, h⟩ | ⟨-, -, h⟩
  · rw [h] at e
    cases e
    exact .inl ⟨hd, rfl⟩
  · rw [h] at e
    cases e
    exact .inr (.inl ⟨x, y, n, hn, hd, rfl⟩)
  · rcases s.runHost_cases (Config.hostChange s.draws) with ⟨hs, h'⟩ | ⟨h', -⟩ | ⟨h', -⟩ <;> rw [h, h'] at e <;> cases e
    exact .inr (.inr (.inl ⟨_, hs, rfl⟩))
  · rw [h] at e
    cases e
    exact .inr (.inr (.inr rfl))

/-- What port E does with a word handed to it. -/
theorem portE_cases (w : Word) (s : State) :
    (decodeE w = .ok .cls ∧ portE w s = .next s.clearGrids) ∨
    (∃ x y n, n ≤ 15 ∧ decodeE w = .ok (.drw x y n) ∧ portE w s = .next (execNext (.drw x y n) s)) ∨
    portE w s = .next s := by
  rcases decodeE_cases w with ⟨-, h⟩ | ⟨-, h, hn⟩ | ⟨-, -, h⟩
  · exact .inl ⟨h, by simp [portE, h, exec_eq, execNext]⟩
  · refine .inr (.inl ⟨(fieldX w).toFin, (fieldY w).toFin, _, hn, h, ?_⟩)
    simp [portE, h, exec_eq]
  · exact .inr (.inr (by simp [portE, h]))

theorem State.drivesPortE_iff (s : State) :
    s.drivesPortE = true ↔ s.loaded = true ∧ s.terminal = false ∧ s.suspended = none := by
  simp [State.drivesPortE, and_assoc]

/-- A host that stands neither fetches nor drives port E. -/
theorem State.Stands.brings_nothing {s : State} (h : s.Stands) (i : Instr) : ¬Brings s.nextRequest s i := by
  rintro (⟨hr, ⟨hl, ht, hb⟩, -⟩ | ⟨w, -, hd, -⟩)
  · rcases h with h | h | ⟨-, h⟩
    · simp [h] at hl
    · simp [h] at ht
    · simp [hb] at h
      exact h hr
  · obtain ⟨hl, ht, hs⟩ := s.drivesPortE_iff.1 hd
    rcases h with h | h | ⟨h, -⟩
    · simp [h] at hl
    · simp [h] at ht
    · simp [hs] at h

theorem hostIssue_standing (w : Word) {s : State} (h : s.drivesPortE = false) : hostIssue w s = .next s := by
  simp [hostIssue, h]

theorem hostIssue_driving (w : Word) {s : State} (h : s.drivesPortE = true) : hostIssue w s = portE w s := by
  simp [hostIssue, h]

/-- What the host's handing over of a word does. -/
theorem hostIssue_cases (w : Word) (s : State) :
    (s.drivesPortE = true ∧ decodeE w = .ok .cls ∧ hostIssue w s = .next s.clearGrids) ∨
    (∃ x y n, n ≤ 15 ∧ s.drivesPortE = true ∧ decodeE w = .ok (.drw x y n) ∧
      hostIssue w s = .next (execNext (.drw x y n) s)) ∨
    hostIssue w s = .next s := by
  cases hd : s.drivesPortE
  · exact .inr (.inr (hostIssue_standing w hd))
  · rw [hostIssue_driving w hd]
    rcases portE_cases w s with ⟨h, e⟩ | ⟨x, y, n, hn, h, e⟩ | e
    · exact .inl ⟨rfl, h, e⟩
    · exact .inr (.inl ⟨x, y, n, hn, rfl, h, e⟩)
    · exact .inr (.inr e)

/-- Port P serves a SNAP or a COMMIT. -/
theorem portP_cases (c : BitVec 1) (s : State) :
    (c = 0#1 ∧ portP c s = .next s.returnSnap) ∨ (c = 1#1 ∧ portP c s = .next (if s.dirty then s.copyGrid else s)) := by
  have : c = 0#1 ∨ c = 1#1 := by
    revert c
    decide
  rcases this with rfl | rfl
  · exact .inl ⟨rfl, rfl⟩
  · exact .inr ⟨rfl, rfl⟩

/-- The host's `step()` is idle, suspended, or past the fetch. -/
theorem interpreterStep_cases (s : State) :
    ((s.loaded = false ∨ s.terminal = true) ∧ interpreterStep s = .next s) ∨
    (s.loaded = true ∧ ∃ line, s.atBreakpoint = some line ∧ interpreterStep s = .next (s.suspendAt line)) ∨
    (s.Ready ∧ interpreterStep s = dispatchWord s.resume.fetchWord s.resume.advance) := by
  by_cases h : (s.loaded && !s.terminal) = true
  · have h' : s.loaded = true ∧ s.terminal = false := by simpa using h
    cases hb : s.atBreakpoint with
    | some line => exact .inr (.inl ⟨h'.1, line, rfl, by simp [interpreterStep, h', hb]⟩)
    | none => exact .inr (.inr ⟨⟨h'.1, h'.2, hb⟩, by simp [interpreterStep, h', hb]⟩)
  · refine .inl ⟨?_, by simp [interpreterStep, h]⟩
    revert h
    cases s.loaded <;> cases s.terminal <;> simp

/-- `advance` moves the program counter, and on a fetch the spec does not describe draws a free value; nothing else. -/
theorem advance_cases (s : State) : ∃ pc draws, s.advance = { s with pc := pc, draws := draws } := by
  unfold State.advance
  split
  · exact ⟨_, _, rfl⟩
  · exact ⟨_, _, rfl⟩

/-- What a served request may do to the block: nothing; a clear of both grids, by a CLS the request brings or by a load;
one DRW the request brings, from a state with the same block and operands; a COMMIT that finds a redraw pending. -/
inductive BlockEffect (r : Request) (s t : State) : Prop
  | same (h : SameBlock s t)
  | clear (live : t.live = zeroGrid) (pres : t.pres = zeroGrid) (dirty : t.dirty = false) (who : Clears r s)
  | draw (x y : RegNum) (n : Nat) (u : State) (height : n ≤ 15) (who : Brings r s (.drw x y n)) (h : SameBlock s u)
      (operands : SameOperands s u) (next : t = execNext (.drw x y n) u)
  | commit (who : r = .present 1#1) (pending : s.dirty = true) (pres : t.pres = s.live) (live : t.live = s.live)
      (dirty : t.dirty = false)

theorem serve_blockEffect {r : Request} {s t : State} (e : serve r s = .next t) : BlockEffect r s t := by
  have same : SameBlock s s := ⟨rfl, rfl, rfl⟩
  cases r with
  | step =>
    rcases interpreterStep_cases s with ⟨-, h⟩ | ⟨-, line, -, h⟩ | ⟨ready, h⟩ <;> simp only [serve, h] at e
    · cases e
      exact .same same
    · cases e
      exact .same same
    · obtain ⟨pc, draws, ha⟩ := advance_cases s.resume
      have same' : SameBlock s s.resume.advance ∧ SameOperands s s.resume.advance := by
        rw [ha]
        exact ⟨same, fun _ => rfl, rfl, fun _ => rfl⟩
      rcases dispatchWord_next e with ⟨hd, rfl⟩ | ⟨x, y, n, hn, hd, rfl⟩ | ⟨c, -, rfl⟩ | rfl
      · exact .clear rfl rfl rfl (.inl (.inl ⟨rfl, ready, hd⟩))
      · exact .draw x y n _ hn (.inl ⟨rfl, ready, hd⟩) same'.1 same'.2 rfl
      · exact .same same'.1
      · exact .same same'.1
  | issue w =>
    rcases hostIssue_cases w s with ⟨hp, hd, h'⟩ | ⟨x, y, n, hn, hp, hd, h'⟩ | h' <;> rw [serve, h'] at e <;> cases e
    · exact .clear rfl rfl rfl (.inl (.inr ⟨w, rfl, hp, hd⟩))
    · exact .draw x y n _ hn (.inr ⟨w, rfl, hp, hd⟩) same ⟨fun _ => rfl, rfl, fun _ => rfl⟩ rfl
    · exact .same same
  | present c =>
    rcases portP_cases c s with ⟨rfl, h⟩ | ⟨rfl, h⟩ <;> rw [serve, h] at e <;> cases e
    · exact .same same
    · cases hd : s.dirty
      · exact .same same
      · exact .commit rfl hd rfl rfl rfl
  | load program =>
    simp only [serve, ownerLoad] at e
    split at e <;> cases e
    exact .clear rfl rfl rfl (.inr ⟨program, rfl⟩)
  | edit ed =>
    simp only [serve, inspectorEdit] at e
    split at e <;> cases e
    cases ed <;> exact .same same
  | shutdown | setBreakpoint | clearBreakpoint | setKey | clock =>
    cases e
    exact .same same

/-- A served request leaves the rest of the total order as it was. -/
theorem serve_agenda {r : Request} {s t : State} (e : serve r s = .next t) : t.agenda = s.agenda := by
  cases r with
  | step =>
    rcases interpreterStep_cases s with ⟨-, h⟩ | ⟨-, line, -, h⟩ | ⟨-, h⟩ <;> simp only [serve, h] at e
    · cases e
      rfl
    · cases e
      rfl
    · obtain ⟨pc, draws, ha⟩ := advance_cases s.resume
      rw [ha] at e
      rcases dispatchWord_next e with ⟨-, rfl⟩ | ⟨x, y, n, -, -, rfl⟩ | ⟨c, -, rfl⟩ | rfl <;> rfl
  | issue w =>
    rcases hostIssue_cases w s with ⟨-, -, h'⟩ | ⟨x, y, n, -, -, -, h'⟩ | h' <;> rw [serve, h'] at e <;> cases e <;> rfl
  | present c =>
    rcases portP_cases c s with ⟨rfl, h⟩ | ⟨rfl, h⟩ <;> rw [serve, h] at e <;> cases e
    · rfl
    · split <;> rfl
  | load program =>
    simp only [serve, ownerLoad] at e
    split at e <;> cases e
    rfl
  | edit ed =>
    simp only [serve, inspectorEdit] at e
    split at e <;> cases e
    cases ed <;> rfl
  | shutdown | setBreakpoint | clearBreakpoint | setKey | clock =>
    cases e
    rfl

end Sys2Proof.Machine
end

