-- ==== Sys2Proof/Laws/Run.lean ====
section
/-! SUPPORT. Runs: what one step adds to a run, and the run of Safety.lean is the host's own. spec/20_memory.md R30. -/

namespace Sys2Proof.Machine

theorem core_run_next {M : Host.Core} {s t : M.State} (k : Nat) (h : M.step s = .next t) :
    M.run (k + 1) s = M.run k t := by simp only [Host.Core.run, h]

theorem core_run_fault {M : Host.Core} {s : M.State} {r : M.Fault} (k : Nat) (h : M.step s = .fault r) :
    M.run (k + 1) s = .fault r := by simp only [Host.Core.run, h]

theorem core_run_refused {M : Host.Core} {s : M.State} {r : M.Refusal} (k : Nat) (h : M.step s = .refused r) :
    M.run (k + 1) s = .refused r := by simp only [Host.Core.run, h]

/-- The run claims speak of is the host's run of the machine behind its interface. -/
theorem run_eq_core_run (k : Nat) (s : State) : run k s = Sys2Proof.core.run k s := by
  induction k generalizing s with
  | zero => rfl
  | succ k ih =>
    cases h : step s with
    | next t =>
      have e : Sys2Proof.core.run (k + 1) s = Sys2Proof.core.run k t := core_run_next (M := Sys2Proof.core) k h
      rw [e, run, h]
      exact ih t
    | fault r =>
      have e : Sys2Proof.core.run (k + 1) s = .fault r := core_run_fault (M := Sys2Proof.core) k h
      simp only [e, run, h]
      rfl
    | refused r =>
      have e : Sys2Proof.core.run (k + 1) s = .refused r := core_run_refused (M := Sys2Proof.core) k h
      simp only [e, run, h]
      rfl

theorem run_succ_next {s t : State} (k : Nat) (h : step s = .next t) : run (k + 1) s = run k t := by rw [run, h]

/-- With a request at the head of the agenda, the step serves it. -/
theorem step_cons (s : State) (r : Request) (rs : List Request) :
    step { s with agenda := r :: rs } = serve r { s with agenda := rs } := rfl

end Sys2Proof.Machine
end

