-- ==== Sys2Proof/Tests/Slice0.lean ====
section
/-! SUPPORT. The model's own tests, with results taken from spec/95_test_vectors.md, and for each statement with
hypotheses a state and operands that meet them. -/

namespace Sys2Proof.Machine.Tests

/-- A state with some registers, memory bytes and an index, as the host's other instructions would leave it. -/
def start (v : Vector Byte 16) (index : Word) (mem : Memory) : State :=
  { State.reset with loaded := true, v := v, index := index, mem := mem }

/-- A grid with the given rows, each as the number whose bit x is the pixel in column x. -/
def rows (rs : List (Nat × GridRow)) : Grid := rs.foldl (fun g r => g.setIfInBounds r.1 r.2) zeroGrid

/-- The outcome is a next state that passes the check. -/
def passes (o : Host.Outcome State Fault Refusal) (check : State → Bool) : Bool :=
  match o with
  | .next t => check t
  | _ => false

/-! ### Well-formedness and decoding -/

theorem test_wellFormed_height_15 : WellFormed (.drw 15 15 15) := by decide

theorem test_wellFormed_refuses_height_16 : ¬WellFormed (.drw 0 0 16) := by decide

/-- 30_encoding.md R37: `0000 0000 1110 0000`. -/
theorem test_decode_cls : decodeE 0b0000000011100000#16 = .ok .cls := by decide

/-- 30_encoding.md R36: `1101 xxxx yyyy nnnn` with x = 1010, y = 0011, n = 0101. -/
theorem test_decode_drw : decodeE 0b1101101000110101#16 = .ok (.drw 10 3 5) := by decide

/-- 30_encoding.md R38. -/
theorem test_decode_present : decodeP 0#1 = .snap ∧ decodeP 1#1 = .commit := by decide

/-- 95_test_vectors.md 2.1: these words are not the block's. -/
theorem test_decode_rejects : [0x00EE#16, 0x00E1#16, 0x10E0#16, 0xE0D0#16, 0xC0E0#16].all
    (fun w => decide (decodeE w = .error (.notTheBlocks w))) = true := by decide

/-- spec/opcode_table.json: one word for each row. -/
theorem test_decodeTableWord : decodeTableWord 16 0x00E0 = some .cls ∧ decodeTableWord 16 0xD123 = some (.drw 1 2 3) ∧
    decodeTableWord 8 0 = some .snap ∧ decodeTableWord 1 1 = some .commit ∧ decodeTableWord 16 0x1234 = none := by decide

/-- 30_encoding.md R42: the word 0xD015 at line 3. -/
theorem test_listing : listingLine 3 0xD015#16 = some "3: D015" := by decide

theorem test_asm : (Instr.drw 10 11 5).asm = "DRW VA, VB, 5" := by decide

/-! ### The four operations -/

/-- 95_test_vectors.md V3: 0xA5 at (10, 5) over the pixel (12, 5): one collision, three new pixels. -/
theorem test_drw_collision :
    passes (exec (.drw 0 1 1) { start #v[10, 5, 0, 0, 0, 0, 0, 0, 0, 0, 0, 0, 0, 0, 0, 0] 0x300#16 [(0x300, 0xA5#8)] with
      live := rows [(5, 0x1000#64)] })
      (fun t => t.live == rows [(5, 0x28400#64)] && t.reg 15 == 1#8 && t.dirty && t.pres == zeroGrid) = true := by decide

/-- 95_test_vectors.md P3, step 1: both edges wrap, and the third row is outside memory. -/
theorem test_drw_wraps_and_leaves_memory :
    passes (exec (.drw 2 3 3)
      (start #v[0, 0, 62, 31, 5, 0, 0, 0, 0, 0, 0, 0, 0, 0, 0, 0] 4094#16 [(4094, 0xFF#8), (4095, 0x81#8)]))
      (fun t => t.live == rows [(31, 0xC00000000000003F#64), (0, 0x4000000000000020#64)] && t.reg 15 == 0#8 &&
        t.diag == [.oobRead 4096#17]) = true := by decide

/-- 95_test_vectors.md V16. -/
theorem test_cls :
    passes (exec .cls { start #v[0, 0, 0, 0, 0, 0, 0, 0, 0, 0, 0, 0, 0, 0, 0, 1] 0 [] with
      live := rows [(0, 0xFF#64)], pres := rows [(5, 0x20#64)], dirty := true })
      (fun t => t.live == zeroGrid && t.pres == zeroGrid && !t.dirty && t.reg 15 == 1#8) = true := by decide

/-- 95_test_vectors.md V18. -/
theorem test_commit_copies :
    passes (exec .commit { State.reset with live := rows [(0, 0xFF#64)], dirty := true })
      (fun t => t.pres == rows [(0, 0xFF#64)] && t.live == rows [(0, 0xFF#64)] && !t.dirty) = true := by decide

/-- 42_presentation.md R57: without a pending redraw COMMIT copies nothing. -/
theorem test_commit_without_redraw :
    passes (exec .commit { State.reset with live := rows [(0, 0xFF#64)] }) (fun t => t.pres == zeroGrid) = true := by decide

/-- 95_test_vectors.md V21: the pixel (2, 1) is bit 66 of the result; DIRTY stays. -/
theorem test_snap :
    passes (exec .snap { State.reset with pres := rows [(1, 0x4#64)], dirty := true })
      (fun t => t.dirty && (t.snaps.map fun g => [65, 66, 67].map fun k => (snapVector g)[k]?) ==
        [[some false, some true, some false]]) = true := by decide

/-! ### Requests -/

/-- 95_test_vectors.md P1: the image's first word is fetched after a load, and the program counter moves on. -/
theorem test_load_then_step :
    passes (run 2 { State.reset with agenda := [.load [0x00#8, 0xE0#8, 0xD0#8, 0x15#8], .step] })
      (fun t => t.pc == 0x202#16 && t.loaded && t.cell 0x203 == 0x15#8) = true := by decide

/-- 60_exceptions.md R68: suspended at line 3, and not before. -/
theorem test_breakpoint :
    passes (step { start (Vector.replicate 16 0) 0 [] with pc := 518#16, breakpoints := [3] })
      (fun t => t.suspended == some 3 && t.pc == 518#16) = true := by decide

/-- 60_exceptions.md R68, R69: a suspended host brings a word to port E no more than one that is shut down. -/
theorem test_issue_standing :
    passes (step { State.reset with loaded := true, suspended := some 0, dirty := true, agenda := [.issue 0x00E0#16] })
      (fun t => t.dirty && t.suspended == some 0) = true ∧
    passes (step { State.reset with loaded := true, terminal := true, dirty := true, agenda := [.issue 0x00E0#16] })
      (fun t => t.dirty) = true ∧
    passes (step { State.reset with loaded := true, dirty := true, agenda := [.issue 0x00E0#16] }) (fun t => !t.dirty) =
      true := by decide

/-- The step after `withFetchWord` runs the word, on either port. -/
theorem test_withFetchWord :
    passes (step ({ State.reset with dirty := true }.withFetchWord 16 0x00E0)) (fun t => !t.dirty && t.pc == 514#16) = true ∧
    passes (step (State.reset.withFetchWord 16 0xD0F0)) (fun t => t.dirty) = true ∧
    passes (step (State.reset.withFetchWord 8 0)) (fun t => t.snaps == [zeroGrid]) = true ∧
    passes (step ({ State.reset with dirty := true }.withFetchWord 8 1)) (fun t => !t.dirty) = true := by decide

/-! ### Witnesses: the hypotheses of each statement, met together -/

/-- A loaded host at 512 whose next word is DRW V0, V1, 1, with a sprite row of 0xFF at 0x300, a redraw pending. -/
def drawing : State :=
  { start #v[60, 31, 4, 63, 0, 0, 0, 0, 0, 0, 0, 0, 0, 0, 0, 0] 0x300#16 [(512, 0xD0#8), (513, 0x11#8), (0x300, 0xFF#8)] with
    dirty := true }

/-- The same at a word that is not the block's. -/
def hosts : State := { drawing with mem := [(512, 0x00#8), (513, 0xEE#8)] }

theorem witness_ProgramLoadResetsTheMachine : drawing.terminal = false := rfl

/-- The first byte of a program, and a byte at the last cell of memory. -/
theorem witness_LoadedProgramLiesAt512 :
    ([0xAB#8][0]? = some 0xAB#8 ∧ 512 + 0 < 4096) ∧ ((List.replicate 3584 0xCD#8)[3583]? = some 0xCD#8 ∧ 512 + 3583 < 4096) :=
  ⟨by decide, by rw [List.getElem?_replicate]; decide⟩

theorem witness_LoadedProgramStartsWithItsFirstWord :
    drawing.terminal = false ∧ 0 ∉ drawing.breakpoints ∧ WellFormed (.drw 0 1 1) ∧ encode (.drw 0 1 1) = .e 0xD011#16 := by
  decide

theorem witness_EveryStepKeepsTheInvariant : drawing.Inv ∧ ∃ t, step drawing = .next t :=
  ⟨⟨by decide, by decide, by decide, by decide, by decide⟩, _, rfl⟩

/-- The invariant's other side: no redraw pending, equal grids, a suspended host with breakpoints and keys. -/
theorem witness_EveryStepKeepsTheInvariant_idle :
    State.Inv { drawing with dirty := false, suspended := some 0, breakpoints := [0, 7], keys := [5] } :=
  ⟨by decide, by decide, by decide, by decide, by decide⟩

theorem witness_DecodeOfEncodeIsTheInstruction : WellFormed (.drw 15 0 15) ∧ WellFormed .commit := by decide

theorem witness_EncodeOfDecodeIsTheWord :
    decode (.e 0xDFFF#16) = .ok (.drw 15 15 15) ∧ decode (.e 0x00E0#16) = .ok .cls ∧ decode (.p 1#1) = .ok .commit := by
  decide

theorem witness_GroupDWordsAreDrw :
    0xD000#16 &&& 0xF000#16 = 0xD000#16 ∧ 0xDFFF#16 &&& 0xF000#16 = 0xD000#16 ∧
    decodeE 0xD000#16 = .ok (.drw 0 0 0) ∧ 15 ≤ 15 := by decide

theorem witness_OtherWordsAreIgnoredOnPortE :
    0x00EE#16 ≠ 0x00E0#16 ∧ 0x00EE#16 &&& 0xF000#16 ≠ 0xD000#16 := by decide

theorem ready_drawing : drawing.Ready := ⟨rfl, rfl, rfl⟩

theorem ready_hosts : hosts.Ready := ⟨rfl, rfl, rfl⟩

/-- The first and the last program counter with a described fetch. -/
theorem witness_FetchedWordsAreBigEndian :
    ((0#16).toNat % 2 = 0 ∧ (0#16).toNat + 1 ≤ 4095) ∧ ((4094#16).toNat % 2 = 0 ∧ (4094#16).toNat + 1 ≤ 4095) := by decide

/-- Both kinds of scheduler's turn; the word DRW V0, V1, 1. -/
theorem witness_StepRunsTheFetchedInstruction :
    drawing.SchedulersTurn ∧ State.SchedulersTurn { drawing with agenda := [.step, .clock] } ∧ drawing.Ready ∧
    drawing.pc.toNat % 2 = 0 ∧ drawing.pc.toNat + 1 ≤ 4095 ∧
    decodeBytes [drawing.cell drawing.pc.toNat, drawing.cell (drawing.pc.toNat + 1)] = .ok (.drw 0 1 1, []) :=
  ⟨.inl rfl, .inr ⟨_, rfl⟩, ready_drawing, by decide, by decide, by decide⟩

/-- The boundary of the fetch: the last even address. -/
theorem witness_StepRunsTheFetchedInstruction_top :
    let s := { drawing with pc := 4094#16, mem := [(4094, 0x00#8), (4095, 0xE0#8)] }
    s.SchedulersTurn ∧ s.Ready ∧ s.pc.toNat % 2 = 0 ∧ s.pc.toNat + 1 ≤ 4095 ∧
    decodeBytes [s.cell s.pc.toNat, s.cell (s.pc.toNat + 1)] = .ok (.cls, []) :=
  ⟨.inl rfl, ⟨rfl, rfl, rfl⟩, by decide, by decide, by decide⟩

theorem witness_StepRunsThePortsOperation :
    (∃ s : State, s.agenda = [.present 1#1]) ∧
    (∃ s : State, s.agenda = [.issue 0xD015#16, .step] ∧ s.loaded = true ∧ s.terminal = false ∧ s.suspended = none ∧
      decodeE 0xD015#16 = .ok (.drw 0 1 5)) :=
  ⟨⟨{ drawing with agenda := [.present 1#1] }, rfl⟩, { drawing with agenda := [.issue 0xD015#16, .step] }, rfl, rfl, rfl,
    rfl, by decide⟩

theorem witness_ClsIsVisibleWithoutCommit :
    drawing.loaded = true ∧ drawing.terminal = false ∧ drawing.suspended = none := ⟨rfl, rfl, rfl⟩

theorem witness_HostInstructionsNeverTouchTheBlock :
    hosts.SchedulersTurn ∧ hosts.Ready ∧ decodeE hosts.resume.fetchWord = .error (.notTheBlocks hosts.resume.fetchWord) :=
  ⟨.inl rfl, ready_hosts, by decide⟩

/-- Its second clause, at both ends of the range. -/
theorem witness_HostInstructionsNeverTouchTheBlock_completes :
    (let s := { hosts with sp := 1 }
     s.SchedulersTurn ∧ s.Ready ∧ decodeE s.resume.fetchWord = .error (.notTheBlocks s.resume.fetchWord) ∧ 1 ≤ s.sp ∧
     s.sp ≤ 15) ∧
    (let s := { hosts with sp := 15 }
     s.SchedulersTurn ∧ s.Ready ∧ decodeE s.resume.fetchWord = .error (.notTheBlocks s.resume.fetchWord) ∧ 1 ≤ s.sp ∧
     s.sp ≤ 15) :=
  ⟨⟨.inl rfl, ⟨rfl, rfl, rfl⟩, by decide, by decide, by decide⟩, .inl rfl, ⟨rfl, rfl, rfl⟩, by decide, by decide, by decide⟩

/-- The first and the last even address of memory. -/
theorem witness_UnknownWordsAreNoOps :
    (let s := { hosts with pc := 0#16, mem := [(0, 0x00#8), (1, 0xEE#8)] }
     s.SchedulersTurn ∧ s.Ready ∧ s.pc.toNat % 2 = 0 ∧ s.pc.toNat + 1 ≤ 4095 ∧
     decodeE s.fetchWord = .error (.notTheBlocks s.fetchWord)) ∧
    (let s := { hosts with pc := 4094#16, mem := [(4094, 0xE0#8), (4095, 0xD0#8)] }
     s.SchedulersTurn ∧ s.Ready ∧ s.pc.toNat % 2 = 0 ∧ s.pc.toNat + 1 ≤ 4095 ∧
     decodeE s.fetchWord = .error (.notTheBlocks s.fetchWord)) :=
  ⟨⟨.inl rfl, ⟨rfl, rfl, rfl⟩, by decide, by decide, by decide⟩, .inl rfl, ⟨rfl, rfl, rfl⟩, by decide, by decide, by decide⟩

/-- A host change with the given use of the call stack. -/
def stackChange (u : StackUse) : HostChange :=
  ⟨Vector.replicate 16 0, 0, 0, u, Vector.replicate 16 0, 0, 0, []⟩

/-- CallStackFaultsBeyondItsLevels, each clause at an end of its range (93_implementation_defined.md U8: 16 levels). -/
theorem test_callStack_ends :
    passes ({ hosts with sp := 15 }.runHost (stackChange .push)) (fun t => t.sp == 16) = true ∧
    { hosts with sp := 16 }.runHost (stackChange .push) = .fault .callStackOverflow ∧
    { hosts with sp := 0 }.runHost (stackChange .pop) = .fault .callStackUnderflow ∧
    passes ({ hosts with sp := 16 }.runHost (stackChange .pop)) (fun t => t.sp == 15) = true ∧
    passes ({ hosts with sp := 1 }.runHost (stackChange .pop)) (fun t => t.sp == 0) = true ∧
    { hosts with sp := 17 }.runHost (stackChange .pop) = .fault .callStackOverflow ∧
    passes ({ hosts with sp := 20 }.runHost (stackChange .keep)) (fun t => t.sp == 20) = true :=
  ⟨by decide, rfl, rfl, by decide, by decide, rfl, by decide⟩

/-- All levels taken, and a step with a next state. -/
theorem witness_CallStackStaysWithinItsLevels :
    let s := { drawing with sp := 16 }
    s.sp ≤ 16 ∧ (∃ t, step s = .next t) ∧ ∀ n, s.nextRequest ≠ .edit (.sp n) :=
  ⟨by decide, ⟨_, rfl⟩, fun _ h => by cases h⟩

/-- Line 0, at 512 itself, and line 3. -/
theorem witness_BreakpointSuspendsTheHost :
    (let s := { drawing with breakpoints := [0] }
     s.SchedulersTurn ∧ s.loaded = true ∧ s.terminal = false ∧ 512 ≤ s.pc.toNat ∧ (s.pc.toNat - 512) / 2 ∈ s.breakpoints) ∧
    (let s := { drawing with breakpoints := [1, 3], pc := 518#16 }
     s.SchedulersTurn ∧ s.loaded = true ∧ s.terminal = false ∧ 512 ≤ s.pc.toNat ∧ (s.pc.toNat - 512) / 2 ∈ s.breakpoints) :=
  ⟨⟨.inl rfl, rfl, rfl, by decide, by decide⟩, .inl rfl, rfl, rfl, by decide, by decide⟩

theorem witness_UnloadedOrShutDownHostDoesNothing :
    (State.reset.SchedulersTurn ∧ State.reset.loaded = false) ∧
    (State.SchedulersTurn { drawing with terminal := true } ∧ ({ drawing with terminal := true } : State).terminal = true) :=
  ⟨⟨.inl rfl, rfl⟩, .inl rfl, rfl⟩

/-- Each of the environment's two stops happens; the host's two: `test_callStack_ends`. -/
theorem witness_StepStopsOnlyOnForbiddenMoves :
    step { drawing with agenda := [.edit (.reg 0 1)] } = .fault .editWhileRunning ∧
    step { drawing with terminal := true, agenda := [.load []] } = .fault .loadAfterShutdown := ⟨rfl, rfl⟩

theorem witness_Drw : WellFormed (.drw 0 1 1) ∧ WellFormed (.drw 0 1 15) ∧ WellFormed (.drw 15 15 0) := by decide

/-- DrwFlagTellsTheCollision, both clauses: a set pixel under the sprite, in a corner, and a blank grid. -/
theorem witness_DrwFlagTellsTheCollision :
    (let s := { drawing with live := rows [(31, 0x8000000000000000#64)] }
     ∃ px py, px < 64 ∧ py < 32 ∧ Toggles s 0 1 1 px py ∧ pixel s.live px py = true) ∧
    ¬∃ px py, px < 64 ∧ py < 32 ∧ Toggles drawing 0 1 1 px py ∧ pixel drawing.live px py = true := by
  refine ⟨⟨63, 31, by decide, by decide, ⟨0, by decide, 3, by decide, by decide, by decide, by decide⟩, by decide⟩, ?_⟩
  rintro ⟨px, py, -, -, -, h⟩
  rw [show drawing.live = zeroGrid from rfl, pixel_zeroGrid] at h
  cases h

/-- SpriteOffTheTopIsDrawnAsItsInRangeRows: I at the last cell, at 4096, and at 65535. -/
theorem witness_SpriteOffTheTop : WellFormed (.drw 0 1 2) ∧
    1 = min 2 (4096 - ({ drawing with index := 4095#16 } : State).index.toNat) ∧
    (let s := { drawing with index := 4096#16 }
     4096 ≤ s.index.toNat ∧ 0 = min 2 (4096 - s.index.toNat) ∧ 0 ≤ 1 ∧ 1 < 2) ∧
    (let s := { drawing with index := 65535#16 }
     4096 ≤ s.index.toNat ∧ 0 = min 2 (4096 - s.index.toNat)) := by decide

/-- With coordinates in V0 and V1, and with a coordinate in VF that the draw leaves as it was. -/
theorem witness_DrawingTwiceRestoresTheGrid :
    (∃ t, exec (.drw 0 1 1) drawing = .next t ∧ t.reg 0 = drawing.reg 0 ∧ t.reg 1 = drawing.reg 1) ∧
    ∃ t, exec (.drw 15 1 1) drawing = .next t ∧ t.reg 15 = drawing.reg 15 ∧ t.reg 1 = drawing.reg 1 :=
  ⟨⟨_, rfl, by decide, by decide⟩, _, rfl, by decide, by decide⟩

/-- 95_test_vectors.md S3's kind: two sprites that touch, none of their pixels shared. -/
theorem witness_NonOverlappingSpritesNeverCollide :
    ∃ t, WellFormed (.drw 0 1 1) ∧ WellFormed (.drw 2 1 1) ∧ Blank drawing.live ∧ exec (.drw 0 1 1) drawing = .next t ∧
      ∀ px py, ¬(Toggles drawing 0 1 1 px py ∧ Toggles t 2 1 1 px py) := by
  refine ⟨_, by decide, by decide, fun x y _ _ => pixel_zeroGrid x y, rfl, ?_⟩
  rintro px py ⟨⟨-, -, i, hi, hx, -, -⟩, -, -, i', hi', hx', -, -⟩
  have h60 : px = (60 + i) % 64 := hx
  have h4 : px = (4 + i') % 64 := hx'
  omega

/-- The same sprite with its coordinates in other registers, the column 64 greater and the row 32 greater. -/
theorem witness_DrawDependsOnlyOnWrappedCoordinatesAndRows :
    let s' := { drawing with v := #v[0, 0, 124, 63, 0, 0, 0, 0, 0, 0, 0, 0, 0, 0, 0, 9], pres := rows [(3, 1#64)] }
    WellFormed (.drw 0 1 1) ∧ s'.live = drawing.live ∧
    (∀ row, row < 1 → s'.spriteByte row = drawing.spriteByte row) ∧
    (s'.reg 2).toNat % 64 = (drawing.reg 0).toNat % 64 ∧ (s'.reg 3).toNat % 32 = (drawing.reg 1).toNat % 32 :=
  ⟨by decide, rfl, fun _ _ => rfl, by decide, by decide⟩

/-- The whole sprite of 15 rows, both ends; and one pixel addressed by itself, where the last premises hold. -/
theorem witness_SpriteAddressesDistinctPixels :
    (15 ≤ 15 ∧ 0 < 15 ∧ 14 < 15 ∧ 0 < 8 ∧ 7 < 8) ∧ pixelColumn 255 7 = pixelColumn 255 7 ∧ pixelRow 255 14 = pixelRow 255 14 := by
  decide

theorem witness_RowOrderDoesNotMatter : 3 ≤ 15 ∧ [2, 0, 1].Perm (List.range 3) := by decide

theorem witness_OutOfRangeAccessesAreRejected :
    (4095#17).toNat ≤ 4095 ∧ 4095 < (4096#17).toNat ∧ 4095 < (65549#17).toNat ∧ 4095 < 4096 := by decide

theorem witness_SpriteAddressDoesNotWrap : 14 ≤ 14 ∧ (spriteAddr 0xFFFF#16 14).toNat = 65549 := by decide

theorem witness_CommitCopiesAPendingRedraw : drawing.dirty = true ∧ State.reset.dirty = false := ⟨rfl, rfl⟩

theorem witness_SnapResultIsRowMajor : 63 < 64 ∧ 31 < 32 := by decide

theorem witness_CommitThenSnapShowsEveryDraw : drawing.Coherent ∧ State.reset.Coherent := ⟨by decide, by decide⟩

/-- OnlyDrwAndClearsChangeLive, OnlyCommitAndClearsChangePres, DirtyFallsOnlyWithEqualGrids: a step that draws, one that
clears, one that commits and one that does none of these. -/
theorem witness_BlockWriters :
    (∃ t, step { drawing with dirty := false } = .next t ∧ t.dirty = true) ∧
    (∃ t, step { drawing with agenda := [.issue 0x00E0#16] } = .next t ∧ t.dirty = false) ∧
    (∃ t, step { drawing with agenda := [.present 1#1] } = .next t ∧ t.dirty = false) ∧
    ∃ t, step { drawing with agenda := [.clock] } = .next t ∧ t.dirty = true :=
  ⟨⟨_, rfl, rfl⟩, ⟨_, rfl, rfl⟩, ⟨_, rfl, rfl⟩, _, rfl, rfl⟩

/-- What the three steps of `witness_BlockWriters` bring: a fetched DRW, a CLS handed over, and a load's clear. -/
theorem witness_BlockWriters_brings :
    Brings drawing.nextRequest drawing (.drw 0 1 1) ∧
    (let s := { drawing with agenda := [.issue 0x00E0#16] }
     Clears s.nextRequest s) ∧
    (let s := { drawing with agenda := [.load [0xAB#8]] }
     Clears s.nextRequest s) :=
  ⟨.inl ⟨rfl, ready_drawing, by decide⟩, .inl (.inr ⟨_, rfl, by decide, by decide⟩), .inr ⟨_, rfl⟩⟩

/-- Each way to stand, with each request the clauses ask about: a word for port E, the reader's command, the scheduler's
step() at a breakpoint, an edit, and a load, which the last clause leaves out. -/
theorem witness_StandingHostLeavesTheBlockAlone :
    (let s := { State.reset with agenda := [.issue 0xD015#16] }
     s.Stands ∧ s.agenda = [.issue 0xD015#16]) ∧
    (let s := { drawing with terminal := true, agenda := [.present 1#1] }
     s.Stands ∧ s.agenda = [.present 1#1] ∧ ∃ t, step s = .next t ∧ t.dirty = false) ∧
    (let s := { drawing with suspended := some 0, breakpoints := [0] }
     s.Stands ∧ s.nextRequest = .step ∧ (∃ t, step s = .next t) ∧ ∀ program, s.nextRequest ≠ .load program) ∧
    (let s := { drawing with suspended := some 0, agenda := [.edit (.reg 15 9)] }
     s.Stands ∧ (∃ t, step s = .next t ∧ t.reg 15 = 9) ∧ ∀ program, s.nextRequest ≠ .load program) :=
  ⟨⟨.inl rfl, rfl⟩, ⟨.inr (.inl rfl), rfl, _, rfl, rfl⟩,
    ⟨.inr (.inr ⟨rfl, fun _ => rfl⟩), rfl, ⟨_, rfl⟩, fun _ h => by cases h⟩,
    .inr (.inr ⟨rfl, fun h => by cases h⟩), ⟨_, rfl, by decide⟩, fun _ h => by cases h⟩

/-- A suspended host; another register, another stack level; the last cell and the first address outside memory. -/
theorem witness_EditsReachTheHostButNeverTheBlock :
    ({ drawing with suspended := some 0 } : State).suspended.isSome = true ∧ (1 : RegNum) ≠ 0 ∧ (15 : Fin 16) ≠ 0 ∧
    4095 < 4096 ∧ 0 ≠ 4095 ∧ 4096 ≤ 4096 := by
  decide

/-- A run that draws, commits and snaps: one result. -/
theorem witness_EverySnapIsAWholeFrame :
    ∃ t, run 3 { drawing with agenda := [.step, .present 1#1, .present 0#1] } = .next t ∧ ∃ g, g ∈ t.snaps :=
  ⟨_, rfl, _, List.mem_singleton.2 rfl⟩

end Sys2Proof.Machine.Tests
end

/-! ### The host's `step()`, said case by case, and the obligations of 00_scope.md -/

namespace Sys2Proof.Machine

/-- On the scheduler's turn the step is the host's `step()`, on the state without that request (log 15). -/
theorem State.SchedulersTurn.step_eq {s : State} (turn : s.SchedulersTurn) :
    step s = interpreterStep s.popRequest := by
  have isStep : s.nextRequest = .step := by
    rcases turn with h | ⟨rs, h⟩ <;> simp [State.nextRequest, h]
  rw [step, isStep, serve]

/-- Whether the host is ready does not depend on the agenda. -/
theorem State.Ready.popRequest {s : State} (ready : s.Ready) : s.popRequest.Ready := ready

theorem interpreterStep_idle {s : State} (idle : s.loaded = false ∨ s.terminal = true) :
    interpreterStep s = .next s := by
  rcases idle with h | h <;> simp [interpreterStep, h]

theorem interpreterStep_ready {s : State} (ready : s.Ready) :
    interpreterStep s = dispatchWord s.resume.fetchWord s.resume.advance := by
  obtain ⟨loaded, running, noBreak⟩ := ready
  simp [interpreterStep, loaded, running, noBreak]

theorem fetchable_iff (pc : Word) : fetchable pc = true ↔ pc.toNat % 2 = 0 ∧ pc.toNat + 1 ≤ 4095 := by
  simp [fetchable]

theorem State.fetchWord_of_fetchable {s : State} (h : fetchable s.pc = true) :
    s.fetchWord = wordOfBytes (s.cell s.pc.toNat) (s.cell (s.pc.toNat + 1)) := if_pos h

theorem State.advance_of_fetchable {s : State} (h : fetchable s.pc = true) :
    s.advance = { s with pc := s.pc + 2#16 } := if_pos h

/-- Neither the agenda nor what `resume` changes is read by a fetch that the spec describes. -/
theorem State.fetchWord_resume_popRequest {s : State} (h : fetchable s.pc = true) :
    s.popRequest.resume.fetchWord = wordOfBytes (s.cell s.pc.toNat) (s.cell (s.pc.toNat + 1)) :=
  fetchWord_of_fetchable (s := s.popRequest.resume) h

theorem decodeBytes_pair_ok_iff (b0 b1 : Byte) (i : Instr) :
    decodeBytes [b0, b1] = .ok (i, []) ↔ decodeE (wordOfBytes b0 b1) = .ok i := by
  cases h : decodeE (wordOfBytes b0 b1) <;> simp [decodeBytes, h]

theorem dispatchWord_of_decodeE {w : Word} {i : Instr} (h : decodeE w = .ok i) (s : State) :
    dispatchWord w s = exec i s := by
  simp [dispatchWord, h]

/-- Settles O13: the request is taken off, a ready host resumes and fetches the two bytes as one word, and the word's
instruction is dispatched on the state with the program counter past it. -/
theorem stepRunsTheFetchedInstruction : Obligations.StepRunsTheFetchedInstruction := by
  unfold Obligations.StepRunsTheFetchedInstruction
  intro s i turn ready even inside decodes
  have fetch : fetchable s.pc = true := (fetchable_iff _).2 ⟨even, inside⟩
  have word : decodeE s.popRequest.resume.fetchWord = .ok i := by
    rw [State.fetchWord_resume_popRequest fetch]
    exact (decodeBytes_pair_ok_iff _ _ _).1 decodes
  calc step s
      = interpreterStep s.popRequest := turn.step_eq
    _ = dispatchWord s.popRequest.resume.fetchWord s.popRequest.resume.advance := interpreterStep_ready ready.popRequest
    _ = exec i s.popRequest.resume.advance := dispatchWord_of_decodeE word _
    _ = exec i { s.popRequest.resume with pc := s.pc + 2#16 } :=
        congrArg (exec i) (State.advance_of_fetchable (s := s.popRequest.resume) fetch)

/-- Settles O17: the step is the host's `step()`, which is idle. -/
theorem unloadedOrShutDownHostDoesNothing : Obligations.UnloadedOrShutDownHostDoesNothing := by
  unfold Obligations.UnloadedOrShutDownHostDoesNothing
  intro s turn idle
  rw [turn.step_eq, interpreterStep_idle (s := s.popRequest) idle, State.popRequest]

end Sys2Proof.Machine

/-! ### The block's state at creation and in a step: the obligations of 10_state.md -/

namespace Sys2Proof.Machine

theorem blank_zeroGrid : Blank zeroGrid := fun x y _ _ => pixel_zeroGrid x y

@[simp] theorem execNext_drw_pres (x y : RegNum) (n : Nat) (s : State) :
    (execNext (.drw x y n) s).pres = s.pres := rfl

@[simp] theorem execNext_drw_dirty (x y : RegNum) (n : Nat) (s : State) :
    (execNext (.drw x y n) s).dirty = true := rfl

/-- Which operation a request brings does not depend on the requests still to come. -/
theorem brings_popRequest {r : Request} {s : State} {i : Instr} : Brings r s.popRequest i ↔ Brings r s i := Iff.rfl

theorem clears_popRequest {r : Request} {s : State} : Clears r s.popRequest ↔ Clears r s := Iff.rfl

/-- A step has one of the block effects of the request it serves, seen from the state with that request still in it. -/
theorem step_blockEffect {s t : State} (e : step s = .next t) : BlockEffect s.nextRequest s t := by
  cases serve_blockEffect e with
  | same h => exact .same h
  | clear live pres dirty who => exact .clear live pres dirty (clears_popRequest.1 who)
  | draw x y n u height who h operands next => exact .draw x y n u height (brings_popRequest.1 who) h operands next
  | commit who pending pres live dirty => exact .commit who pending pres live dirty

/-- Settles O1: both grids are the zero grid, the two flags are down. -/
theorem resetLeavesTheBlockClear : Obligations.ResetLeavesTheBlockClear := by
  unfold Obligations.ResetLeavesTheBlockClear
  exact ⟨blank_zeroGrid, blank_zeroGrid, rfl, rfl⟩

/-- Settles O40: of the block effects of a step, only a clear and a DRW change LIVE. -/
theorem onlyDrwAndClearsChangeLive : Obligations.OnlyDrwAndClearsChangeLive := by
  unfold Obligations.OnlyDrwAndClearsChangeLive
  intro s t e
  cases step_blockEffect e with
  | same h =>
    obtain ⟨live, -, -⟩ := h
    exact .inl live
  | clear live pres dirty who => exact .inr (.inl ⟨who, live ▸ blank_zeroGrid, pres ▸ blank_zeroGrid, dirty⟩)
  | draw x y n u height who h operands next =>
    exact .inr (.inr ⟨x, y, n, u, height, who, h, operands, next ▸ exec_eq _ u⟩)
  | commit _ _ _ live => exact .inl live

/-- Settles O41: of the block effects of a step, only a clear and a COMMIT with a redraw pending change PRES; a DRW
takes it over as it was. -/
theorem onlyCommitAndClearsChangePres : Obligations.OnlyCommitAndClearsChangePres := by
  unfold Obligations.OnlyCommitAndClearsChangePres
  intro s t e
  cases step_blockEffect e with
  | same h =>
    obtain ⟨-, pres, -⟩ := h
    exact .inl pres
  | clear live pres _ who => exact .inr (.inr ⟨who, pres ▸ blank_zeroGrid, live ▸ blank_zeroGrid⟩)
  | draw x y n u _ _ h _ next =>
    obtain ⟨-, pres, -⟩ := h
    exact .inl (by rw [next, execNext_drw_pres, pres])
  | commit who pending pres live => exact .inr (.inl ⟨who, pending, pres, live⟩)

/-- DIRTY goes down only by a clear or a COMMIT, and both leave equal grids (70_reset_and_hazards.md R79). -/
theorem step_dirty_falls {s t : State} (e : step s = .next t) (pending : s.dirty = true) (clean : t.dirty = false) :
    (s.nextRequest = .present 1#1 ∨ Clears s.nextRequest s) ∧ t.pres = t.live := by
  cases step_blockEffect e with
  | same h =>
    obtain ⟨-, -, dirty⟩ := h
    simp [dirty, pending] at clean
  | clear live pres _ who => exact ⟨.inr who, pres.trans live.symm⟩
  | draw _ _ _ _ _ _ _ _ next => simp [next] at clean
  | commit who _ pres live => exact ⟨.inl who, pres.trans live.symm⟩

/-- DIRTY goes up only by the DRW that the request brings (41_draw.md R51). -/
theorem step_dirty_rises {s t : State} (e : step s = .next t) (clean : s.dirty = false) (pending : t.dirty = true) :
    ∃ (x y : RegNum) (n : Nat) (u : State), n ≤ 15 ∧ Brings s.nextRequest s (.drw x y n) ∧ SameBlock s u ∧
      SameOperands s u ∧ exec (.drw x y n) u = .next t := by
  cases step_blockEffect e with
  | same h =>
    obtain ⟨-, -, dirty⟩ := h
    simp [dirty, clean] at pending
  | clear _ _ dirty _ => simp [dirty] at pending
  | draw x y n u height who h operands next => exact ⟨x, y, n, u, height, who, h, operands, next ▸ exec_eq _ u⟩
  | commit _ found _ _ _ => simp [clean] at found

/-- Settles O42: the fall and the rise of DIRTY, each by the block effects of a step. -/
theorem dirtyFallsOnlyWithEqualGrids : Obligations.DirtyFallsOnlyWithEqualGrids := by
  unfold Obligations.DirtyFallsOnlyWithEqualGrids
  exact fun _ _ e => ⟨step_dirty_falls e, step_dirty_rises e⟩

end Sys2Proof.Machine

/-! ### Memory, its addresses and the order of requests: the obligations of 20_memory.md -/

namespace Sys2Proof.Machine

/-- A cell that a load or a store has written reads as the byte written. -/
theorem State.cell_of_lookup {s : State} {a : Nat} {b : Byte} (h : s.mem.lookup a = some b) : s.cell a = b := by
  simp [State.cell, h]

@[simp] theorem State.loadProgram_mem (s : State) (program : List Byte) :
    (s.loadProgram program).mem = Memory.storeBytes [] 512 program := rfl

/-- Settles O3: the load stores the program at consecutive addresses from 512, and each of them is read back. -/
theorem loadedProgramLiesAt512 : Obligations.LoadedProgramLiesAt512 := by
  unfold Obligations.LoadedProgramLiesAt512
  intro s program k b byte inside
  apply State.cell_of_lookup
  rw [State.loadProgram_mem]
  exact Memory.lookup_storeBytes [] program 512 k byte inside

/-- Settles O11: closed words and bytes, so the decoder is evaluated on each. -/
theorem sampleWordsDecode : Obligations.SampleWordsDecode := by
  unfold Obligations.SampleWordsDecode
  decide

theorem toNat_wordOfBytes (b0 b1 : Byte) : (wordOfBytes b0 b1).toNat = 256 * b0.toNat + b1.toNat := by
  rw [wordOfBytes, toNat_append_eq, Nat.mul_comm, show 2 ^ 8 = 256 from rfl]

/-- Settles O12: the fetch is of the two bytes at the program counter, put together as a word. -/
theorem fetchedWordsAreBigEndian : Obligations.FetchedWordsAreBigEndian := by
  unfold Obligations.FetchedWordsAreBigEndian
  intro s even inside
  rw [State.fetchWord_of_fetchable ((fetchable_iff _).2 ⟨even, inside⟩), toNat_wordOfBytes]

theorem State.memRead_inside (s : State) {addr : SpriteAddr} (h : addr.toNat ≤ 4095) :
    s.memRead addr = s.cell addr.toNat := if_pos h

theorem State.memRead_outside (s : State) {addr : SpriteAddr} (h : 4095 < addr.toNat) : s.memRead addr = 0x00#8 :=
  if_neg (Nat.not_le.2 h)

theorem readDiag_inside {addr : SpriteAddr} (h : addr.toNat ≤ 4095) : readDiag addr = [] := if_pos h

theorem readDiag_outside {addr : SpriteAddr} (h : 4095 < addr.toNat) : readDiag addr = [.oobRead addr] :=
  if_neg (Nat.not_le.2 h)

theorem Memory.store_outside (m : Memory) {addr : Nat} (h : 4095 < addr) (b : Byte) : m.store addr b = m :=
  if_neg (Nat.not_lt.2 h)

/-- Settles O34: a read and its diagnostic inside memory and outside it, a write outside it, and a row byte of 0. -/
theorem outOfRangeAccessesAreRejected : Obligations.OutOfRangeAccessesAreRejected := by
  unfold Obligations.OutOfRangeAccessesAreRejected
  refine ⟨fun s addr => ⟨fun inside => ?_, fun outside => ?_⟩, fun m addr b => ?_, drawRow_zero⟩
  · exact ⟨s.memRead_inside inside, readDiag_inside inside⟩
  · exact ⟨s.memRead_outside outside, readDiag_outside outside⟩
  · exact fun outside => m.store_outside outside b

/-- Settles O35: the 17-bit sum does not wrap for 15 rows or fewer, and I is below 65536. -/
theorem spriteAddressDoesNotWrap : Obligations.SpriteAddressDoesNotWrap := by
  unfold Obligations.SpriteAddressDoesNotWrap
  intro base row last
  have indexBound := base.isLt
  exact ⟨toNat_spriteAddr base (by omega), by omega⟩

/-! #### Runs of a given agenda -/

/-- A run whose first request completes goes on, from the state it leaves, with the requests after it. -/
theorem run_cons_next {r : Request} {rs : List Request} {s u : State} (h : serve r { s with agenda := rs } = .next u)
    (k : Nat) : run (k + 1) { s with agenda := r :: rs } = run k { u with agenda := rs } := by
  have rest : u.agenda = rs := serve_agenda h
  subst rest
  exact run_succ_next k h

theorem run_cons_fault {r : Request} {rs : List Request} {s : State} {f : Fault}
    (h : serve r { s with agenda := rs } = .fault f) (k : Nat) :
    run (k + 1) { s with agenda := r :: rs } = .fault f := by
  rw [run, step_cons, h]

theorem run_cons_refused {r : Request} {rs : List Request} {s : State} {f : Refusal}
    (h : serve r { s with agenda := rs } = .refused f) (k : Nat) :
    run (k + 1) { s with agenda := r :: rs } = .refused f := by
  rw [run, step_cons, h]

/-- The reader's request is served by its operation (30_encoding.md R38). -/
theorem serve_present (c : BitVec 1) (s : State) : serve (.present c) s = .next (execNext (decodeP c) s) :=
  exec_eq (decodeP c) s

/-! #### COMMIT, then SNAP -/

theorem execNext_commit_pending {s : State} (pending : s.dirty = true) : execNext .commit s = s.copyGrid := if_pos pending

theorem execNext_commit_clean {s : State} (clean : s.dirty = false) : execNext .commit s = s :=
  if_neg (Bool.not_eq_true _ ▸ clean)

@[simp] theorem execNext_commit_live (s : State) : (execNext .commit s).live = s.live := by
  cases dirty : s.dirty
  · rw [execNext_commit_clean dirty]
  · rw [execNext_commit_pending dirty, State.copyGrid_live]

@[simp] theorem execNext_commit_snaps (s : State) : (execNext .commit s).snaps = s.snaps := by
  cases dirty : s.dirty
  · rw [execNext_commit_clean dirty]
  · rw [execNext_commit_pending dirty, State.copyGrid_snaps]

/-- After a COMMIT the reader's grid is the live one: it is copied, or the two were equal (42_presentation.md R57). -/
theorem execNext_commit_pres {s : State} (coherent : s.Coherent) : (execNext .commit s).pres = s.live := by
  cases dirty : s.dirty
  · rw [execNext_commit_clean dirty, coherent dirty]
  · rw [execNext_commit_pending dirty, State.copyGrid_pres]

/-- Settles O39: the run is the COMMIT and then the SNAP, which returns the PRES that the COMMIT left. -/
theorem commitThenSnapShowsEveryDraw : Obligations.CommitThenSnapShowsEveryDraw := by
  unfold Obligations.CommitThenSnapShowsEveryDraw
  intro s coherent
  refine ⟨_, (run_cons_next (serve_present 1#1 _) 1).trans (run_cons_next (serve_present 0#1 _) 0), ?_, ?_⟩
  · exact congrArg₂ (fun earlier g => earlier ++ [g]) (execNext_commit_snaps _)
      (execNext_commit_pres (s := { s with agenda := [.present 0#1] }) coherent)
  · exact execNext_commit_live { s with agenda := [.present 0#1] }

/-! #### The reader and the execution side -/

/-- Outcomes with the same execution side stop alike or both go on. -/
theorem outcomeSide_eq_cases {o o' : Host.Outcome State Fault Refusal} (h : outcomeSide o = outcomeSide o') :
    (∃ u v, o = .next u ∧ o' = .next v ∧ u.execSide = v.execSide) ∨
    (∃ f, o = .fault f ∧ o' = .fault f) ∨ ∃ f, o = .refused f ∧ o' = .refused f := by
  cases o with
  | next u =>
    cases o' with
    | next v => exact .inl ⟨u, v, rfl, rfl, Host.Outcome.next.inj h⟩
    | fault | refused => cases h
  | fault f =>
    cases o' with
    | fault => exact .inr (.inl ⟨f, rfl, h.symm⟩)
    | next | refused => cases h
  | refused f =>
    cases o' with
    | refused => exact .inr (.inr ⟨f, rfl, h.symm⟩)
    | next | fault => cases h

@[simp] theorem State.execSide_execSide (s : State) : s.execSide.execSide = s.execSide := rfl

@[simp] theorem State.execSide_copyGrid (s : State) : s.copyGrid.execSide = s.execSide := rfl

theorem execSide_execNext_commit (s : State) : (execNext .commit s).execSide = s.execSide := by
  cases dirty : s.dirty
  · rw [execNext_commit_clean dirty]
  · rw [execNext_commit_pending dirty, State.execSide_copyGrid]

/-- The reader's operations leave the execution side as it was (20_memory.md R30). -/
theorem execSide_execNext_decodeP (c : BitVec 1) (s : State) : (execNext (decodeP c) s).execSide = s.execSide := by
  unfold decodeP
  split
  · exact execSide_execNext_commit s
  · rfl

/-- No operation of the block brings what only the reader sees into the execution side. -/
theorem exec_execSide (i : Instr) (s : State) : outcomeSide (exec i s.execSide) = outcomeSide (exec i s) := by
  rw [exec_eq, exec_eq]
  cases i with
  | cls | drw | snap => rfl
  | commit => simp only [outcomeSide, execSide_execNext_commit, State.execSide_execSide]

theorem State.runHost_execSide (s : State) (c : HostChange) :
    outcomeSide (s.execSide.runHost c) = outcomeSide (s.runHost c) := by
  simp only [State.runHost, State.execSide_sp]
  split <;> rfl

theorem State.hostWord_execSide (s : State) (w : Word) : outcomeSide (s.execSide.hostWord w) = outcomeSide (s.hostWord w) := by
  unfold State.hostWord
  split
  · exact s.runHost_execSide (Config.hostChange s.draws)
  · rfl

theorem dispatchWord_execSide (w : Word) (s : State) :
    outcomeSide (dispatchWord w s.execSide) = outcomeSide (dispatchWord w s) := by
  unfold dispatchWord
  split
  · exact exec_execSide _ s
  · exact s.hostWord_execSide w

theorem portE_execSide (w : Word) (s : State) : outcomeSide (portE w s.execSide) = outcomeSide (portE w s) := by
  unfold portE
  split
  · exact exec_execSide _ s
  · rfl

theorem State.advance_of_not_fetchable {s : State} (h : fetchable s.pc = false) :
    s.advance = { s with pc := (Config.strayFetch s.draws).2, draws := s.draws + 1 } :=
  if_neg (Bool.not_eq_true _ ▸ h)

theorem State.advance_execSide (s : State) : s.execSide.advance = s.advance.execSide := by
  cases described : fetchable s.pc
  · rw [State.advance_of_not_fetchable described, State.advance_of_not_fetchable (s := s.execSide) described]
    rfl
  · rw [State.advance_of_fetchable described, State.advance_of_fetchable (s := s.execSide) described]
    rfl

theorem State.resume_advance_execSide (s : State) : s.execSide.resume.advance = s.resume.advance.execSide :=
  s.resume.advance_execSide

theorem interpreterStep_execSide (s : State) :
    outcomeSide (interpreterStep s.execSide) = outcomeSide (interpreterStep s) := by
  have line : s.execSide.atBreakpoint = s.atBreakpoint := rfl
  have word : s.execSide.resume.fetchWord = s.resume.fetchWord := rfl
  simp only [interpreterStep, State.execSide_loaded, State.execSide_terminal, line, word, State.resume_advance_execSide]
  split
  · split
    · rfl
    · exact dispatchWord_execSide _ _
  · rfl

theorem hostIssue_execSide (w : Word) (s : State) : outcomeSide (hostIssue w s.execSide) = outcomeSide (hostIssue w s) := by
  have drives : s.execSide.drivesPortE = s.drivesPortE := rfl
  simp only [hostIssue, drives]
  split
  · exact portE_execSide w s
  · rfl

theorem ownerLoad_running {s : State} (running : s.terminal = false) (program : List Byte) :
    ownerLoad program s = .next (s.loadProgram program) := if_neg (Bool.not_eq_true _ ▸ running)

theorem ownerLoad_shutDown {s : State} (shutDown : s.terminal = true) (program : List Byte) :
    ownerLoad program s = .fault .loadAfterShutdown := if_pos shutDown

theorem ownerLoad_execSide (program : List Byte) (s : State) :
    outcomeSide (ownerLoad program s.execSide) = outcomeSide (ownerLoad program s) := by
  cases terminal : s.terminal
  · rw [ownerLoad_running terminal, ownerLoad_running (s := s.execSide) terminal]
    rfl
  · rw [ownerLoad_shutDown terminal, ownerLoad_shutDown (s := s.execSide) terminal]

theorem inspectorEdit_suspended {s : State} (suspended : s.suspended.isSome = true) (e : Edit) :
    inspectorEdit e s = .next (s.applyEdit e) := if_pos suspended

theorem inspectorEdit_running {s : State} (running : s.suspended.isSome = false) (e : Edit) :
    inspectorEdit e s = .fault .editWhileRunning := if_neg (Bool.not_eq_true _ ▸ running)

theorem inspectorEdit_execSide (e : Edit) (s : State) :
    outcomeSide (inspectorEdit e s.execSide) = outcomeSide (inspectorEdit e s) := by
  cases suspended : s.suspended.isSome
  · rw [inspectorEdit_running suspended, inspectorEdit_running (s := s.execSide) suspended]
  · rw [inspectorEdit_suspended suspended, inspectorEdit_suspended (s := s.execSide) suspended]
    cases e <;> rfl

/-- Serving a request never brings what only the reader sees into the execution side: the state's own execution side
serves it to the same outcome. -/
theorem serve_execSide (r : Request) (s : State) : outcomeSide (serve r s.execSide) = outcomeSide (serve r s) := by
  cases r with
  | step => exact interpreterStep_execSide s
  | issue w => exact hostIssue_execSide w s
  | present c => exact exec_execSide (decodeP c) s
  | load program => exact ownerLoad_execSide program s
  | edit e => exact inspectorEdit_execSide e s
  | shutdown | setBreakpoint | clearBreakpoint | setKey | clock => rfl

theorem serve_congr_execSide {s t : State} (same : s.execSide = t.execSide) (r : Request) :
    outcomeSide (serve r s) = outcomeSide (serve r t) := by
  rw [← serve_execSide r s, same, serve_execSide r t]

/-- Two runs that serve the same request first end alike if, after it, they end alike from every two states with the same
execution side. -/
theorem outcomeSide_run_cons {s t : State} {r : Request} {rs qs : List Request} {k l : Nat}
    (same : s.execSide = t.execSide)
    (rest : ∀ u v : State, u.execSide = v.execSide →
      outcomeSide (run k { u with agenda := rs }) = outcomeSide (run l { v with agenda := qs })) :
    outcomeSide (run (k + 1) { s with agenda := r :: rs }) = outcomeSide (run (l + 1) { t with agenda := r :: qs }) := by
  have served : outcomeSide (serve r { s with agenda := rs }) = outcomeSide (serve r { t with agenda := qs }) :=
    serve_congr_execSide (s := { s with agenda := rs }) (t := { t with agenda := qs }) same r
  rcases outcomeSide_eq_cases served with ⟨u, v, hs, ht, after⟩ | ⟨f, hs, ht⟩ | ⟨f, hs, ht⟩
  · rw [run_cons_next hs, run_cons_next ht]
    exact rest u v after
  · rw [run_cons_fault hs, run_cons_fault ht]
  · rw [run_cons_refused hs, run_cons_refused ht]

/-- A reader's request at the head of a run leaves a state with the same execution side to the rest of it. -/
theorem run_cons_reader {r : Request} (reader : r.isReaders = true) (s : State) (rs : List Request) (k : Nat) :
    ∃ u : State, u.execSide = s.execSide ∧ run (k + 1) { s with agenda := r :: rs } = run k { u with agenda := rs } := by
  cases r with
  | present c => exact ⟨_, execSide_execNext_decodeP c { s with agenda := rs }, run_cons_next (serve_present c _) k⟩
  | step | issue | load | shutdown | setBreakpoint | clearBreakpoint | edit | setKey | clock => cases reader

/-- From states with the same execution side, a total order and the one less the reader's requests end alike. -/
theorem outcomeSide_run_withoutReader (rs : List Request) {s t : State} (same : s.execSide = t.execSide) :
    outcomeSide (run rs.length { s with agenda := rs }) =
      outcomeSide (run (withoutReader rs).length { t with agenda := withoutReader rs }) := by
  induction rs generalizing s t with
  | nil => exact congrArg Host.Outcome.next same
  | cons r rs ih =>
    cases reader : r.isReaders
    · have kept : withoutReader (r :: rs) = r :: withoutReader rs := by simp [withoutReader, reader]
      rw [kept]
      exact outcomeSide_run_cons same fun _ _ after => ih after
    · have dropped : withoutReader (r :: rs) = withoutReader rs := by simp [withoutReader, reader]
      obtain ⟨u, unchanged, goesOn⟩ := run_cons_reader reader s rs rs.length
      rw [dropped, List.length_cons, goesOn]
      exact ih (unchanged.trans same)

/-- Settles O44: the two runs start from one state. -/
theorem readerNeverDisturbsTheExecutionSide : Obligations.ReaderNeverDisturbsTheExecutionSide := by
  unfold Obligations.ReaderNeverDisturbsTheExecutionSide
  exact fun s rs => outcomeSide_run_withoutReader rs rfl

/-! #### The SNAP results of a run -/

/-- A served request leaves the SNAP results as they were, but for a SNAP, which adds PRES. -/
theorem serve_snaps {r : Request} {s t : State} (e : serve r s = .next t) :
    t.snaps = s.snaps ∨ t.snaps = s.snaps ++ [s.pres] := by
  cases r with
  | present c =>
    rcases portP_cases c s with ⟨-, h⟩ | ⟨-, h⟩ <;> rw [serve, h] at e <;> cases e
    · exact .inr rfl
    · exact .inl (execNext_commit_snaps s)
  | step =>
    rcases interpreterStep_cases s with ⟨-, h⟩ | ⟨-, line, -, h⟩ | ⟨-, h⟩ <;> simp only [serve, h] at e
    · cases e
      exact .inl rfl
    · cases e
      exact .inl rfl
    · obtain ⟨pc, draws, advanced⟩ := advance_cases s.resume
      rw [advanced] at e
      rcases dispatchWord_next e with ⟨-, rfl⟩ | ⟨x, y, n, -, -, rfl⟩ | ⟨c, -, rfl⟩ | rfl <;> exact .inl rfl
  | issue w =>
    rcases hostIssue_cases w s with ⟨-, -, h⟩ | ⟨x, y, n, -, -, -, h⟩ | h <;> rw [serve, h] at e <;> cases e <;>
      exact .inl rfl
  | load program =>
    simp only [serve, ownerLoad] at e
    split at e <;> cases e
    exact .inl rfl
  | edit ed =>
    simp only [serve, inspectorEdit] at e
    split at e <;> cases e
    cases ed <;> exact .inl rfl
  | shutdown | setBreakpoint | clearBreakpoint | setKey | clock =>
    cases e
    exact .inl rfl

theorem step_snaps {s t : State} (e : step s = .next t) : t.snaps = s.snaps ∨ t.snaps = s.snaps ++ [s.pres] :=
  serve_snaps (s := s.popRequest) e

/-- After a step PRES is a whole frame: as it was, or LIVE before the step or after it. -/
theorem step_pres {s t : State} (e : step s = .next t) : t.pres = s.pres ∨ t.pres = s.live ∨ t.pres = t.live := by
  cases step_blockEffect e with
  | same h =>
    obtain ⟨-, pres, -⟩ := h
    exact .inl pres
  | clear live pres _ _ => exact .inr (.inr (pres.trans live.symm))
  | draw _ _ _ _ _ _ h _ next =>
    obtain ⟨-, pres, -⟩ := h
    exact .inl (by rw [next, execNext_drw_pres, pres])
  | commit _ _ pres _ _ => exact .inr (.inl pres)

/-- `g` is LIVE as it stands at one of the first `k` states of the run from `s`. -/
def LiveDuring (k : Nat) (s : State) (g : Grid) : Prop := ∃ j, j < k ∧ ∃ u, run j s = .next u ∧ u.live = g

theorem liveDuring_start {k : Nat} (pos : 0 < k) (s : State) : LiveDuring k s s.live := ⟨0, pos, s, rfl, rfl⟩

theorem LiveDuring.of_step {k : Nat} {s s' : State} {g : Grid} (e : step s = .next s') (later : LiveDuring k s' g) :
    LiveDuring (k + 1) s g := by
  obtain ⟨j, bound, u, reach, live⟩ := later
  exact ⟨j + 1, Nat.succ_lt_succ bound, u, (run_succ_next j e).trans reach, live⟩

/-- A run that completes with a step more than `k` takes that step first. -/
theorem run_succ_eq_next {k : Nat} {s t : State} (e : run (k + 1) s = .next t) :
    ∃ s', step s = .next s' ∧ run k s' = .next t := by
  cases first : step s with
  | next s' => exact ⟨s', rfl, (run_succ_next k first).symm.trans e⟩
  | fault f => simp [run, first] at e
  | refused f => simp [run, first] at e

/-- A SNAP result of a run is an earlier one, PRES as the run found it, or LIVE as it stood during the run. PRES counts for
a run of one step or more only: the step before it may have cleared LIVE along with PRES, and that LIVE stands in the run
only if the run goes on. -/
theorem snaps_of_run {k : Nat} {s t : State} (e : run k s = .next t) {g : Grid} (result : g ∈ t.snaps) :
    g ∈ s.snaps ∨ (0 < k ∧ g = s.pres) ∨ LiveDuring k s g := by
  induction k generalizing s with
  | zero =>
    cases e
    exact .inl result
  | succ k ih =>
    obtain ⟨s', first, rest⟩ := run_succ_eq_next e
    rcases ih rest with earlier | ⟨goesOn, rfl⟩ | later
    · rcases step_snaps first with same | added
      · exact .inl (same ▸ earlier)
      · rw [added, List.mem_append, List.mem_singleton] at earlier
        exact earlier.imp_right fun pres => .inl ⟨k.succ_pos, pres⟩
    · rcases step_pres first with same | before | after
      · exact .inr (.inl ⟨k.succ_pos, same⟩)
      · exact .inr (.inr (before ▸ liveDuring_start k.succ_pos s))
      · exact .inr (.inr (after ▸ (liveDuring_start goesOn s').of_step first))
    · exact .inr (.inr (later.of_step first))

/-- Settles O45: the SNAP results of a run, without the bound on its length. -/
theorem everySnapIsAWholeFrame : Obligations.EverySnapIsAWholeFrame := by
  unfold Obligations.EverySnapIsAWholeFrame
  intro k s t e g result
  exact (snaps_of_run e result).imp_right (Or.imp_left And.right)

end Sys2Proof.Machine

/-! ### The decoder, the encoder and what a word brings about: the obligations of 30_encoding.md -/

namespace Sys2Proof.Machine

/-! #### Words of group 0xD and their fields -/

/-- The encoder's row of the opcode table, for DRW (30_encoding.md R36). -/
theorem drwWord_and_drwMask (x y : RegNum) (n : Nat) : drwWord x y n &&& drwMask = drwMatch :=
  PortWord.e.inj (Option.some.inj (Laws.TableRow.drw x y n))

theorem fieldX_drwWord (x y : RegNum) (n : Nat) : (fieldX (drwWord x y n)).toFin = x := by
  apply Fin.ext
  show (fieldX (drwWord x y n)).toNat = x.val
  rw [toNat_fieldX, toNat_drwWord]
  omega

theorem fieldY_drwWord (x y : RegNum) (n : Nat) : (fieldY (drwWord x y n)).toFin = y := by
  apply Fin.ext
  show (fieldY (drwWord x y n)).toNat = y.val
  rw [toNat_fieldY, toNat_drwWord]
  omega

theorem fieldN_drwWord (x y : RegNum) {n : Nat} (height : n ≤ 15) : (fieldN (drwWord x y n)).toNat = n := by
  rw [toNat_fieldN, toNat_drwWord]
  omega

/-- A word of group 0xD is the pattern filled in with its own nibbles. -/
theorem drwWord_fields {w : Word} (group : w &&& drwMask = drwMatch) :
    drwWord (fieldX w).toFin (fieldY w).toFin (fieldN w).toNat = w := by
  have high : w.toNat / 4096 = 13 := by
    rw [← toNat_fieldG, (drwMask_iff w).1 group]
    rfl
  apply BitVec.eq_of_toNat_eq
  rw [toNat_drwWord]
  simp only [BitVec.val_toFin, toNat_fieldX, toNat_fieldY, toNat_fieldN]
  omega

/-! #### The decoder of port E, row by row -/

theorem decodeE_of_drwMask {w : Word} (group : w &&& drwMask = drwMatch) :
    decodeE w = .ok (.drw (fieldX w).toFin (fieldY w).toFin (fieldN w).toNat) := by
  rcases decodeE_cases w with ⟨rfl, -⟩ | ⟨-, decodes, -⟩ | ⟨-, other, -⟩
  · exact absurd group (by decide)
  · exact decodes
  · exact absurd group other

theorem decodeE_of_other {w : Word} (notCls : w ≠ clsMatch) (notDrw : w &&& drwMask ≠ drwMatch) :
    decodeE w = .error (.notTheBlocks w) := by
  rcases decodeE_cases w with ⟨cls, -⟩ | ⟨drw, -⟩ | ⟨-, -, rejects⟩
  · exact absurd cls notCls
  · exact absurd drw notDrw
  · exact rejects

theorem decodeE_drwWord (x y : RegNum) {n : Nat} (height : n ≤ 15) : decodeE (drwWord x y n) = .ok (.drw x y n) := by
  rw [decodeE_of_drwMask (drwWord_and_drwMask x y n), fieldX_drwWord, fieldY_drwWord, fieldN_drwWord x y height]

/-- What port E's decoder accepts is well-formed and its own encoding. -/
theorem encode_of_decodeE {w : Word} {i : Instr} (decodes : decodeE w = .ok i) : WellFormed i ∧ encode i = .e w := by
  rcases decodeE_cases w with ⟨rfl, cls⟩ | ⟨group, drw, height⟩ | ⟨-, -, rejects⟩
  · cases cls.symm.trans decodes
    exact ⟨rfl, rfl⟩
  · cases drw.symm.trans decodes
    exact ⟨decide_eq_true height, congrArg PortWord.e (drwWord_fields group)⟩
  · cases rejects.symm.trans decodes

/-- Both codes of port P (30_encoding.md R38). -/
theorem encode_decodeP (c : BitVec 1) : WellFormed (decodeP c) ∧ encode (decodeP c) = .p c := by
  revert c
  decide

/-- Settles O7: CLS and port P are closed words; a DRW's word is of group 0xD and its nibbles are the operands. -/
theorem decodeOfEncodeIsTheInstruction : Obligations.DecodeOfEncodeIsTheInstruction := by
  unfold Obligations.DecodeOfEncodeIsTheInstruction
  intro i wellFormed
  cases i with
  | cls => rfl
  | drw x y n => exact decodeE_drwWord x y (of_decide_eq_true wellFormed)
  | snap => rfl
  | commit => rfl

/-- Settles O8: port by port. -/
theorem encodeOfDecodeIsTheWord : Obligations.EncodeOfDecodeIsTheWord := by
  unfold Obligations.EncodeOfDecodeIsTheWord
  intro p i decodes
  cases p with
  | e w => exact encode_of_decodeE decodes
  | p c =>
    cases decodes
    exact encode_decodeP c

/-- Settles O9: a word of group 0xD decodes to its nibbles; what decodes to a DRW is that DRW's encoding, so of group 0xD;
and the encoding of each DRW decodes to it. -/
theorem groupDWordsAreDrw : Obligations.GroupDWordsAreDrw := by
  unfold Obligations.GroupDWordsAreDrw
  refine ⟨fun w group => ?_, fun w x y n decodes => ?_, fun x y n height => ?_⟩
  · exact ⟨_, _, _, decodeE_of_drwMask group, toNat_fieldX w, toNat_fieldY w, toNat_fieldN w⟩
  · obtain ⟨-, word⟩ := encode_of_decodeE decodes
    exact PortWord.e.inj word ▸ drwWord_and_drwMask x y n
  · exact ⟨drwWord x y n, drwWord_and_drwMask x y n, decodeE_drwWord x y height⟩

/-! #### Port E, port P and the words that are the host's -/

theorem decodeE_eq_cls_iff (w : Word) : decodeE w = .ok .cls ↔ w = clsMatch := by
  constructor
  · intro decodes
    obtain ⟨-, word⟩ := encode_of_decodeE decodes
    exact (PortWord.e.inj word).symm
  · rintro rfl
    rfl

theorem portE_of_decodeE {w : Word} {i : Instr} (decodes : decodeE w = .ok i) (s : State) : portE w s = exec i s := by
  simp [portE, decodes]

theorem portE_of_reject {w : Word} {r : Reject} (rejects : decodeE w = .error r) (s : State) : portE w s = .next s := by
  simp [portE, rejects]

theorem dispatchWord_of_reject {w : Word} {r : Reject} (rejects : decodeE w = .error r) (s : State) :
    dispatchWord w s = s.hostWord w := by
  simp [dispatchWord, rejects]

/-- Settles O10: CLS has the one word that it encodes to, and a word of neither row is rejected, which port E ignores. -/
theorem otherWordsAreIgnoredOnPortE : Obligations.OtherWordsAreIgnoredOnPortE := by
  unfold Obligations.OtherWordsAreIgnoredOnPortE
  refine ⟨decodeE_eq_cls_iff, fun w s notCls notDrw => ?_⟩
  have rejects := decodeE_of_other notCls notDrw
  exact ⟨rejects, portE_of_reject rejects s⟩

/-- The request at the head of the agenda is served, on the state with the rest of the agenda. -/
theorem step_of_agenda {s : State} {r : Request} {rs : List Request} (agenda : s.agenda = r :: rs) :
    step s = serve r { s with agenda := rs } := by
  simp [step, State.nextRequest, State.popRequest, agenda]

/-- Settles O14: a request of either port is served by the operation it stands for. -/
theorem stepRunsThePortsOperation : Obligations.StepRunsThePortsOperation := by
  unfold Obligations.StepRunsThePortsOperation
  intro s rs
  constructor
  · intro c agenda
    rw [step_of_agenda agenda, serve, portP]
  · intro w i agenda loaded running awake decodes
    have drives : State.drivesPortE { s with agenda := rs } = true :=
      (State.drivesPortE_iff _).2 ⟨loaded, running, awake⟩
    rw [step_of_agenda agenda, serve, hostIssue_driving w drives, portE_of_decodeE decodes]

/-- On the scheduler's turn a ready host passes a word that is not the block's to its own dispatch, past the fetch. -/
theorem step_of_hostWord {s : State} (turn : s.SchedulersTurn) (ready : s.Ready) {r : Reject}
    (rejects : decodeE s.resume.fetchWord = .error r) :
    step s = s.popRequest.resume.advance.hostWord s.resume.fetchWord := by
  calc step s
      = interpreterStep s.popRequest := turn.step_eq
    _ = dispatchWord s.resume.fetchWord s.popRequest.resume.advance := interpreterStep_ready ready.popRequest
    _ = s.popRequest.resume.advance.hostWord s.resume.fetchWord := dispatchWord_of_reject rejects _

/-- A host word is a no-op, or makes its change, or stops at an end of the call stack. -/
theorem State.hostWord_cases (s : State) (w : Word) :
    s.hostWord w = .next s ∨ (∃ c, s.hostWord w = .next (s.applyHost c)) ∨
    (s.hostWord w = .fault .callStackOverflow ∧ 16 ≤ s.sp) ∨ (s.hostWord w = .fault .callStackUnderflow ∧ s.sp = 0) := by
  by_cases known : Config.hostKnows w = true
  · have runs : s.hostWord w = s.runHost (Config.hostChange s.draws) := if_pos known
    rw [runs]
    rcases s.runHost_cases (Config.hostChange s.draws) with ⟨-, next⟩ | stops
    · exact .inr (.inl ⟨_, next⟩)
    · exact .inr (.inr stops)
  · exact .inl (if_neg known)

/-- A host word completes, or stops at an end of the call stack (93_implementation_defined.md U8). -/
theorem State.hostWord_completes_or_stops (s : State) (w : Word) :
    (∃ t, s.hostWord w = .next t) ∨ (s.hostWord w = .fault .callStackOverflow ∧ 16 ≤ s.sp) ∨
    (s.hostWord w = .fault .callStackUnderflow ∧ s.sp = 0) := by
  rcases s.hostWord_cases w with noOp | ⟨c, change⟩ | stops
  · exact .inl ⟨s, noOp⟩
  · exact .inl ⟨s.applyHost c, change⟩
  · exact .inr stops

/-- Neither a no-op nor a host change reaches the block, its ports' records or what other agents own. -/
theorem State.hostWord_frame {s t : State} {w : Word} (e : s.hostWord w = .next t) :
    SameBlock s t ∧ t.snaps = s.snaps ∧ t.diag = s.diag ∧ t.agenda = s.agenda ∧ t.breakpoints = s.breakpoints ∧
    t.keys = s.keys := by
  rcases s.hostWord_cases w with h | ⟨c, h⟩ | ⟨h, -⟩ | ⟨h, -⟩ <;> rw [h] at e <;> cases e
  all_goals exact ⟨⟨rfl, rfl, rfl⟩, rfl, rfl, rfl, rfl, rfl⟩

/-- Settles O15: up to the dispatch only host fields change, none of them the stack pointer; from there it is what a host
word can do, and with 1 to 15 levels taken neither end of the call stack is near. -/
theorem hostInstructionsNeverTouchTheBlock : Obligations.HostInstructionsNeverTouchTheBlock := by
  unfold Obligations.HostInstructionsNeverTouchTheBlock
  intro s turn ready rejects
  obtain ⟨pc, draws, advanced⟩ := advance_cases s.popRequest.resume
  rw [step_of_hostWord turn ready rejects, advanced]
  have ends := State.hostWord_completes_or_stops { s.popRequest.resume with pc := pc, draws := draws } s.resume.fetchWord
  refine ⟨fun t e => State.hostWord_frame e, fun low high => ?_, ends⟩
  rcases ends with completes | ⟨-, full⟩ | ⟨-, empty⟩
  · exact completes
  · exact absurd (full.trans high) (by decide)
  · exact absurd (low.trans_eq empty) (by decide)

/-- The fetch reads nothing that `resume` changes. -/
theorem State.fetchWord_resume (s : State) : s.resume.fetchWord = s.fetchWord := rfl

/-- Settles O49: the host's dispatch runs on the state that resumed and moved past the word. -/
theorem unknownWordsAreNoOps : Obligations.UnknownWordsAreNoOps := by
  unfold Obligations.UnknownWordsAreNoOps
  intro s turn ready even inside rejects
  have fetch : fetchable s.popRequest.resume.pc = true := (fetchable_iff _).2 ⟨even, inside⟩
  refine ⟨_, rfl, ?_⟩
  rw [step_of_hostWord turn ready (s.fetchWord_resume ▸ rejects), State.advance_of_fetchable fetch, s.fetchWord_resume]
  rfl

end Sys2Proof.Machine

/-! ### CLS: the obligations of 40_clear.md -/

namespace Sys2Proof.Machine

theorem exec_cls (s : State) : exec .cls s = .next s.clearGrids := exec_eq .cls s

@[simp] theorem State.clearGrids_clearGrids (s : State) : s.clearGrids.clearGrids = s.clearGrids := rfl

@[simp] theorem State.clearGrids_reg (s : State) (r : RegNum) : s.clearGrids.reg r = s.reg r := rfl

@[simp] theorem State.clearGrids_cell (s : State) (a : Nat) : s.clearGrids.cell a = s.cell a := rfl

/-- A clear writes the block only (10_state.md R19). -/
theorem sameHost_clearGrids (s : State) : SameHost s s.clearGrids := by simp [SameHost]

/-- Settles O20: CLS is the clear of both grids, which a second clear finds done. -/
theorem clsClearsBothGrids : Obligations.ClsClearsBothGrids := by
  unfold Obligations.ClsClearsBothGrids
  intro s
  have again : exec .cls s.clearGrids = .next s.clearGrids := by rw [exec_cls, State.clearGrids_clearGrids]
  exact ⟨s.clearGrids, exec_cls s, blank_zeroGrid, blank_zeroGrid, s.clearGrids_dirty, rfl, s.clearGrids_reg,
    sameHost_clearGrids s, s.clearGrids_diag, s.clearGrids_snaps, again⟩

/-- With no redraw pending a COMMIT changes nothing (42_presentation.md R57). -/
theorem exec_commit_clean {s : State} (clean : s.dirty = false) : exec .commit s = .next s := by
  rw [exec_eq, execNext_commit_clean clean]

/-- The word of CLS, from a host that drives port E, clears the block (92_eei_decisions.md D4; log 28). -/
theorem serve_issue_cls {s : State} (drives : s.drivesPortE = true) :
    serve (.issue clsMatch) s = .next s.clearGrids := by
  rw [serve, hostIssue_driving clsMatch drives, portE_of_decodeE ((decodeE_eq_cls_iff clsMatch).2 rfl), exec_cls]

/-- Settles O21: a clear leaves no redraw pending and PRES blank, so a COMMIT changes nothing and a SNAP returns the blank
grid; the run on the two ports is that clear and that SNAP. -/
theorem clsIsVisibleWithoutCommit : Obligations.ClsIsVisibleWithoutCommit := by
  unfold Obligations.ClsIsVisibleWithoutCommit
  intro s
  constructor
  · exact ⟨s.clearGrids, s.clearGrids.returnSnap, zeroGrid, exec_cls s, exec_commit_clean s.clearGrids_dirty,
      exec_eq .snap _, rfl, blank_zeroGrid⟩
  · intro loaded running awake
    have drives : State.drivesPortE { s with agenda := [.present 0#1] } = true :=
      (State.drivesPortE_iff _).2 ⟨loaded, running, awake⟩
    have cleared := run_cons_next (serve_issue_cls drives) 1
    have snapped := run_cons_next (serve_present 0#1 { s.clearGrids with agenda := [] }) 0
    exact ⟨_, zeroGrid, cleared.trans snapped, rfl, blank_zeroGrid, exec_commit_clean rfl⟩

end Sys2Proof.Machine

/-! ### DRW: the obligations of 41_draw.md -/

namespace Sys2Proof.Machine

/-! #### The next state of a DRW, field by field -/

@[simp] theorem State.setReg_reg_same (s : State) (r : RegNum) (b : Byte) : (s.setReg r b).reg r = b := by
  simp [State.reg]

theorem State.setReg_reg_other (s : State) {q r : RegNum} (other : q ≠ r) (b : Byte) :
    (s.setReg r b).reg q = s.reg q := by
  have apart : r.val ≠ q.val := fun same => other (Fin.ext same.symm)
  simp [State.reg, apart]

@[simp] theorem State.setReg_cell (s : State) (r : RegNum) (b : Byte) (a : Nat) :
    (s.setReg r b).cell a = s.cell a := rfl

@[simp] theorem State.setLive_cell (s : State) (g : Grid) (a : Nat) : (s.setLive g).cell a = s.cell a := rfl

@[simp] theorem State.emit_cell (s : State) (ds : List Diag) (a : Nat) : (s.emit ds).cell a = s.cell a := rfl

@[simp] theorem flagByte_true : flagByte true = 0x01#8 := rfl

@[simp] theorem flagByte_false : flagByte false = 0x00#8 := rfl

theorem eq_execNext_of_exec {i : Instr} {s t : State} (completes : exec i s = .next t) : t = execNext i s :=
  Host.Outcome.next.inj (completes.symm.trans (exec_eq i s))

@[simp] theorem execNext_drw_live (x y : RegNum) (n : Nat) (s : State) :
    (execNext (.drw x y n) s).live = (s.drawn x y n).grid := rfl

@[simp] theorem execNext_drw_diag (x y : RegNum) (n : Nat) (s : State) :
    (execNext (.drw x y n) s).diag = s.diag ++ s.rowDiags n := rfl

@[simp] theorem execNext_drw_snaps (x y : RegNum) (n : Nat) (s : State) :
    (execNext (.drw x y n) s).snaps = s.snaps := rfl

@[simp] theorem execNext_drw_flag (x y : RegNum) (n : Nat) (s : State) :
    (execNext (.drw x y n) s).reg 15 = flagByte (s.drawn x y n).hit :=
  State.setReg_reg_same _ flagReg _

theorem execNext_drw_reg (x y : RegNum) (n : Nat) (s : State) {r : RegNum} (other : r ≠ 15) :
    (execNext (.drw x y n) s).reg r = s.reg r :=
  State.setReg_reg_other _ (r := flagReg) other _

/-- Beside the block and the registers a DRW writes nothing, memory included (41_draw.md R52; 10_state.md R19). -/
theorem sameHost_execNext_drw (x y : RegNum) (n : Nat) (s : State) : SameHost s (execNext (.drw x y n) s) := by
  simp [SameHost, execNext]

theorem wellFormed_drw_iff {x y : RegNum} {n : Nat} : WellFormed (.drw x y n) ↔ n ≤ 15 := decide_eq_true_iff

/-- Settles O24: the next state of a DRW has a redraw pending. -/
theorem drwAlwaysRequestsARedraw : Obligations.DrwAlwaysRequestsARedraw := by
  unfold Obligations.DrwAlwaysRequestsARedraw
  exact fun x y n s => ⟨_, exec_eq _ s, execNext_drw_dirty x y n s⟩

/-- Settles O25: DRW writes LIVE, DIRTY, VF and the diagnostics, and nothing else. -/
theorem drwLeavesTheRestAlone : Obligations.DrwLeavesTheRestAlone := by
  unfold Obligations.DrwLeavesTheRestAlone
  exact fun x y n s => ⟨_, exec_eq _ s, execNext_drw_pres x y n s, execNext_drw_snaps x y n s,
    fun _ other => execNext_drw_reg x y n s other, sameHost_execNext_drw x y n s⟩

@[simp] theorem State.drawn_zero (s : State) (x y : RegNum) : s.drawn x y 0 = ⟨s.live, false⟩ := rfl

@[simp] theorem State.rowDiags_zero (s : State) : s.rowDiags 0 = [] := rfl

/-- Settles O33: with no rows the loops leave LIVE and the accumulator as they start, and nothing is read. -/
theorem drwOfNoRowsOnlyClearsTheFlag : Obligations.DrwOfNoRowsOnlyClearsTheFlag := by
  unfold Obligations.DrwOfNoRowsOnlyClearsTheFlag
  intro x y s
  have live : (execNext (.drw x y 0) s).live = s.live := by rw [execNext_drw_live, State.drawn_zero]
  have flag : (execNext (.drw x y 0) s).reg 15 = 0x00#8 := by rw [execNext_drw_flag, State.drawn_zero, flagByte_false]
  have diag : (execNext (.drw x y 0) s).diag = s.diag := by
    rw [execNext_drw_diag, State.rowDiags_zero, List.append_nil]
  exact ⟨_, exec_eq _ s, live, flag, execNext_drw_dirty x y 0 s, diag, execNext_drw_pres x y 0 s,
    fun _ other => execNext_drw_reg x y 0 s other, sameHost_execNext_drw x y 0 s⟩

/-! #### The pixels of a sprite: which ones its bits land on is all that a draw depends on -/

/-- Settles O31: the wrapped coordinates are in the grid, and 15 rows of 8 bits do not come round to the same pixel. -/
theorem spriteAddressesDistinctPixels : Obligations.SpriteAddressesDistinctPixels := by
  unfold Obligations.SpriteAddressesDistinctPixels
  intro x0 y0 n row row' i i' height hrow hrow' hi hi'
  exact ⟨pixelColumn_lt x0 i, pixelRow_lt y0 row, spritePixels_injective x0 y0 (by omega) (by omega) hi hi'⟩

theorem lt_of_mem_range {n : Nat} (height : n ≤ 15) : ∀ row ∈ List.range n, row < 15 :=
  fun _ member => (List.mem_range.1 member).trans_le height

/-- Two sprites whose bits land on the same pixels draw the same grid and the same collision (41_draw.md R48, R49). -/
theorem drawRows_eq_of_lands {x0 y0 x0' y0' : Byte} {rowByte rowByte' : Nat → Byte} {rows rows' : List Nat}
    (bound : ∀ r ∈ rows, r < 15) (nodup : rows.Nodup) (bound' : ∀ r ∈ rows', r < 15) (nodup' : rows'.Nodup)
    (same : ∀ a b, Lands x0 y0 rowByte rows a b ↔ Lands x0' y0' rowByte' rows' a b) (k : Canvas) :
    drawRows x0 y0 rowByte rows k = drawRows x0' y0' rowByte' rows' k := by
  have grid : (drawRows x0 y0 rowByte rows k).grid = (drawRows x0' y0' rowByte' rows' k).grid := by
    refine grid_ext fun a b _ _ => ?_
    rw [pixel_drawRows _ _ _ _ bound nodup, pixel_drawRows _ _ _ _ bound' nodup', decide_eq_decide.2 (same a b)]
  have hit : (drawRows x0 y0 rowByte rows k).hit = (drawRows x0' y0' rowByte' rows' k).hit := by
    rw [Bool.eq_iff_iff, hit_drawRows _ _ _ _ bound nodup, hit_drawRows _ _ _ _ bound' nodup']
    simp only [same]
  exact congrArg₂ Canvas.mk grid hit

/-- Settles O32: a permutation of the rows lands on the same pixels. -/
theorem rowOrderDoesNotMatter : Obligations.RowOrderDoesNotMatter := by
  unfold Obligations.RowOrderDoesNotMatter
  intro x0 y0 rowByte n rows g height perm
  refine drawRows_eq_of_lands (fun r member => lt_of_mem_range height r (perm.mem_iff.1 member))
    (perm.nodup_iff.2 List.nodup_range) (lt_of_mem_range height) List.nodup_range (fun a b => ?_) _
  simp only [Lands, perm.mem_iff]

/-! #### A DRW in the statement's numbers -/

theorem spriteAddr_eq_ofNat (base : Word) (row : Nat) : spriteAddr base row = BitVec.ofNat 17 (base.toNat + row) := by
  rw [spriteAddr, BitVec.ofNat_add, BitVec.ofNat_toNat]

/-- The row's byte as DRW reads it, at a 17-bit address, is the sprite's byte in numbers (20_memory.md R21, R22). -/
theorem State.rowByte_eq_spriteByte (s : State) {row : Nat} (h : row ≤ 15) : s.rowByte row = s.spriteByte row := by
  rw [State.rowByte, State.memRead, toNat_spriteAddr s.index h, State.spriteByte]
  rfl

theorem lands_iff_toggles (s : State) (x y : RegNum) {n : Nat} (height : n ≤ 15) (a b : Nat) :
    Lands (s.reg x) (s.reg y) s.rowByte (List.range n) a b ↔ Toggles s x y n a b := by
  simp only [Lands, Toggles, List.mem_range]
  refine exists_congr fun row => and_congr_right fun inside => ?_
  rw [s.rowByte_eq_spriteByte (by omega)]
  rfl

/-- Only pixels of the grid are addressed (41_draw.md R47). -/
theorem Toggles.inside {s : State} {x y : RegNum} {n a b : Nat} (lands : Toggles s x y n a b) : a < 64 ∧ b < 32 := by
  obtain ⟨row, -, i, -, rfl, rfl, -⟩ := lands
  exact ⟨Nat.mod_lt _ (by decide), Nat.mod_lt _ (by decide)⟩

/-- What a sprite toggles depends on its bytes and its wrapped coordinates alone (41_draw.md R47). -/
theorem toggles_congr {s s' : State} {x y x' y' : RegNum} {n : Nat}
    (bytes : ∀ row, row < n → s'.spriteByte row = s.spriteByte row)
    (column : (s'.reg x').toNat % 64 = (s.reg x).toNat % 64) (line : (s'.reg y').toNat % 32 = (s.reg y).toNat % 32)
    (a b : Nat) : Toggles s' x' y' n a b ↔ Toggles s x y n a b := by
  refine exists_congr fun row => and_congr_right fun inside => exists_congr fun i => and_congr_right fun _ => ?_
  rw [bytes row inside, Nat.add_mod _ i, column, ← Nat.add_mod, Nat.add_mod _ row, line, ← Nat.add_mod]

/-- The grid a DRW leaves: a pixel is inverted if a sprite bit of 1 lands on it (41_draw.md R48). -/
theorem pixel_drawn (s : State) (x y : RegNum) {n : Nat} (height : n ≤ 15) (a b : Nat) :
    pixel (s.drawn x y n).grid a b = (pixel s.live a b ^^ decide (Toggles s x y n a b)) := by
  rw [State.drawn, pixel_drawRows _ _ _ _ (lt_of_mem_range height) List.nodup_range]
  exact congrArg _ (decide_eq_decide.2 (lands_iff_toggles s x y height a b))

/-- The collision a DRW records: a sprite bit of 1 lands on a pixel set before (41_draw.md R49). -/
theorem hit_drawn (s : State) (x y : RegNum) {n : Nat} (height : n ≤ 15) :
    (s.drawn x y n).hit = true ↔ ∃ a b, Toggles s x y n a b ∧ pixel s.live a b = true := by
  rw [State.drawn, hit_drawRows _ _ _ _ (lt_of_mem_range height) List.nodup_range]
  simp [lands_iff_toggles s x y height]

theorem drw_flag_collision {s : State} {x y : RegNum} {n : Nat} (height : n ≤ 15)
    (collides : ∃ a b, Toggles s x y n a b ∧ pixel s.live a b = true) :
    (execNext (.drw x y n) s).reg 15 = 0x01#8 := by
  rw [execNext_drw_flag, (hit_drawn s x y height).2 collides, flagByte_true]

theorem drw_flag_clear {s : State} {x y : RegNum} {n : Nat} (height : n ≤ 15)
    (apart : ∀ a b, Toggles s x y n a b → pixel s.live a b = false) :
    (execNext (.drw x y n) s).reg 15 = 0x00#8 := by
  have noHit : (s.drawn x y n).hit = false := by
    rw [Bool.eq_false_iff, Ne, hit_drawn s x y height]
    rintro ⟨a, b, lands, set⟩
    exact Bool.false_ne_true ((apart a b lands).symm.trans set)
  rw [execNext_drw_flag, noHit, flagByte_false]

/-- Settles O22: pixel by pixel, the grid DRW leaves. -/
theorem drwInvertsExactlyTheSpritePixels : Obligations.DrwInvertsExactlyTheSpritePixels := by
  unfold Obligations.DrwInvertsExactlyTheSpritePixels
  intro x y n s wf
  exact ⟨_, exec_eq _ s, fun px py _ _ => pixel_drawn s x y (wellFormed_drw_iff.1 wf) px py⟩

/-- Settles O23: the flag is the accumulator's, and a pixel that a bit lands on is in the grid. -/
theorem drwFlagTellsTheCollision : Obligations.DrwFlagTellsTheCollision := by
  unfold Obligations.DrwFlagTellsTheCollision
  intro x y n s wf
  have height := wellFormed_drw_iff.1 wf
  refine ⟨_, exec_eq _ s, ?_, fun noneSet => ?_⟩
  · rintro ⟨px, py, -, -, lands, set⟩
    exact drw_flag_collision height ⟨px, py, lands, set⟩
  · refine drw_flag_clear height fun a b lands => Bool.eq_false_iff.2 fun set => noneSet ?_
    exact ⟨a, b, lands.inside.1, lands.inside.2, lands, set⟩

/-- Settles O30: the two sprites toggle the same pixels, so they draw the same canvas from the same grid. -/
theorem drawDependsOnlyOnWrappedCoordinatesAndRows : Obligations.DrawDependsOnlyOnWrappedCoordinatesAndRows := by
  unfold Obligations.DrawDependsOnlyOnWrappedCoordinatesAndRows
  intro x y x' y' n s s' wf live bytes column line
  have height := wellFormed_drw_iff.1 wf
  have canvas : s'.drawn x' y' n = s.drawn x y n := by
    rw [State.drawn, State.drawn, live]
    refine drawRows_eq_of_lands (lt_of_mem_range height) List.nodup_range (lt_of_mem_range height) List.nodup_range
      (fun a b => ?_) _
    rw [lands_iff_toggles s' x' y' height, lands_iff_toggles s x y height, toggles_congr bytes column line]
  refine ⟨_, _, exec_eq _ s, exec_eq _ s', ?_, ?_⟩
  · rw [execNext_drw_live, execNext_drw_live, canvas]
  · rw [execNext_drw_flag, execNext_drw_flag, canvas]

@[simp] theorem execNext_drw_spriteByte (x y : RegNum) (n : Nat) (s : State) (row : Nat) :
    (execNext (.drw x y n) s).spriteByte row = s.spriteByte row := rfl

/-- Settles O28: both draws toggle the same pixels, and a pixel inverted twice is as it was. -/
theorem drawingTwiceRestoresTheGrid : Obligations.DrawingTwiceRestoresTheGrid := by
  unfold Obligations.DrawingTwiceRestoresTheGrid
  intro x y n s t wf draw keepsX keepsY
  have height := wellFormed_drw_iff.1 wf
  obtain rfl := eq_execNext_of_exec draw
  refine ⟨_, exec_eq _ _, grid_ext fun a b _ _ => ?_⟩
  have again := toggles_congr (n := n) (fun row _ => execNext_drw_spriteByte x y n s row) (congrArg (·.toNat % 64) keepsX)
    (congrArg (·.toNat % 32) keepsY) a b
  rw [execNext_drw_live, pixel_drawn _ x y height, execNext_drw_live, pixel_drawn s x y height, decide_eq_decide.2 again,
    Bool.xor_assoc, Bool.xor_self, Bool.xor_false]

/-- Settles O29: on the blank grid nothing is set, and after the first draw only its own pixels are. -/
theorem nonOverlappingSpritesNeverCollide : Obligations.NonOverlappingSpritesNeverCollide := by
  unfold Obligations.NonOverlappingSpritesNeverCollide
  intro x y n x' y' n' s t wf wf' blank draw apart
  have height := wellFormed_drw_iff.1 wf
  obtain rfl := eq_execNext_of_exec draw
  refine ⟨drw_flag_clear height fun a b lands => blank a b lands.inside.1 lands.inside.2, _, exec_eq _ _,
    drw_flag_clear (wellFormed_drw_iff.1 wf') fun a b lands => ?_⟩
  have missed : ¬Toggles s x y n a b := fun first => apart a b ⟨first, lands⟩
  rw [execNext_drw_live, pixel_drawn s x y height, blank a b lands.inside.1 lands.inside.2, decide_eq_false missed,
    Bool.xor_false]

/-! #### A sprite that runs off the top of memory (41_draw.md R55) -/

theorem State.spriteByte_outside {s : State} {row : Nat} (outside : 4095 < s.index.toNat + row) :
    s.spriteByte row = 0x00#8 := if_neg (Nat.not_le.2 outside)

/-- Rows that read 0 at the end of a sprite draw nothing. -/
theorem State.drawn_add_blank {s : State} {k m : Nat} (blank : ∀ row, k ≤ row → row < k + m → s.rowByte row = 0x00#8)
    (x y : RegNum) : s.drawn x y (k + m) = s.drawn x y k := by
  rw [State.drawn, State.drawn, List.range_add, drawRows_append]
  refine drawRows_blank _ _ _ _ (fun row member => ?_) _
  obtain ⟨j, inside, rfl⟩ := List.mem_map.1 member
  exact blank (k + j) (Nat.le_add_right k j) (Nat.add_lt_add_left (List.mem_range.1 inside) k)

/-- Rows inside memory are read without a diagnostic (20_memory.md R21). -/
theorem State.rowDiags_inside {s : State} {k : Nat} (height : k ≤ 15)
    (inside : ∀ row, row < k → s.index.toNat + row ≤ 4095) : s.rowDiags k = [] := by
  refine List.flatMap_eq_nil_iff.2 fun row member => ?_
  have below := List.mem_range.1 member
  exact readDiag_inside (by rw [toNat_spriteAddr s.index (by omega)]; exact inside row below)

/-- The rows of a sprite after the first `k`, all of them outside memory, are reported once each, in row order. -/
theorem State.rowDiags_add_outside {s : State} {k m : Nat} (height : k + m ≤ 15) (outside : 4095 < s.index.toNat + k) :
    s.rowDiags (k + m) =
      s.rowDiags k ++ (List.range m).map fun j => Diag.oobRead (BitVec.ofNat 17 (s.index.toNat + (k + j))) := by
  rw [State.rowDiags, State.rowDiags, List.range_add, List.flatMap_append, List.flatMap_map, List.map_eq_flatMap]
  refine congrArg _ (List.flatMap_congr fun j member => ?_)
  have below := List.mem_range.1 member
  rw [readDiag_outside (by rw [toNat_spriteAddr s.index (by omega)]; omega), spriteAddr_eq_ofNat]

/-- Settles O27: the rows split into the `k` inside memory, which are read without a diagnostic, and the rest, which read 0,
draw nothing and are reported. -/
theorem spriteOffTheTopIsDrawnAsItsInRangeRows : Obligations.SpriteOffTheTopIsDrawnAsItsInRangeRows := by
  unfold Obligations.SpriteOffTheTopIsDrawnAsItsInRangeRows
  intro x y n s k wf rowsInside
  have height := wellFormed_drw_iff.1 wf
  obtain ⟨m, rfl⟩ : ∃ m, n = k + m := ⟨n - k, by omega⟩
  have blank : ∀ row, k ≤ row → row < k + m → s.rowByte row = 0x00#8 := fun row _ _ => by
    rw [s.rowByte_eq_spriteByte (by omega), State.spriteByte_outside (by omega)]
  have canvas : s.drawn x y (k + m) = s.drawn x y k := State.drawn_add_blank blank x y
  have silent : s.rowDiags k = [] := State.rowDiags_inside (by omega) fun row _ => by omega
  refine ⟨_, _, exec_eq _ s, exec_eq _ s, ?_, ?_, execNext_drw_dirty .., ?_, blank, ?_, fun above => ?_⟩
  · rw [execNext_drw_live, execNext_drw_live, canvas]
  · rw [execNext_drw_flag, execNext_drw_flag, canvas]
  · rw [execNext_drw_diag, silent, List.append_nil]
  · rw [execNext_drw_diag, Nat.add_sub_cancel_left]
    rcases m.eq_zero_or_pos with rfl | rest
    · simp [silent]
    · rw [State.rowDiags_add_outside height (by omega), silent, List.nil_append]
  · obtain rfl : k = 0 := by omega
    rw [execNext_drw_live, execNext_drw_flag, canvas, State.drawn_zero, flagByte_false]
    exact ⟨rfl, rfl, rfl⟩

end Sys2Proof.Machine

/-! ### COMMIT, SNAP and the invariant: the obligations of 42_presentation.md -/

namespace Sys2Proof.Machine

/-! #### COMMIT and SNAP -/

theorem exec_commit_pending {s : State} (pending : s.dirty = true) : exec .commit s = .next s.copyGrid := by
  rw [exec_eq, execNext_commit_pending pending]

theorem exec_snap (s : State) : exec .snap s = .next s.returnSnap := exec_eq .snap s

@[simp] theorem State.copyGrid_reg (s : State) (r : RegNum) : s.copyGrid.reg r = s.reg r := rfl

@[simp] theorem State.copyGrid_cell (s : State) (a : Nat) : s.copyGrid.cell a = s.cell a := rfl

@[simp] theorem State.returnSnap_reg (s : State) (r : RegNum) : s.returnSnap.reg r = s.reg r := rfl

@[simp] theorem State.returnSnap_cell (s : State) (a : Nat) : s.returnSnap.cell a = s.cell a := rfl

theorem sameHost_refl (s : State) : SameHost s s := by simp [SameHost]

/-- The copy writes the block only (42_presentation.md R57). -/
theorem sameHost_copyGrid (s : State) : SameHost s s.copyGrid := by simp [SameHost]

theorem sameHost_returnSnap (s : State) : SameHost s s.returnSnap := by simp [SameHost]

theorem sameBlock_returnSnap (s : State) : SameBlock s s.returnSnap := ⟨rfl, rfl, rfl⟩

/-- Settles O36: by DIRTY, COMMIT is the copy of LIVE or changes nothing, and either way leaves DIRTY 0, so that a second
one changes nothing. -/
theorem commitCopiesAPendingRedraw : Obligations.CommitCopiesAPendingRedraw := by
  unfold Obligations.CommitCopiesAPendingRedraw
  intro s
  cases dirty : s.dirty with
  | false =>
    have unchanged : exec .commit s = .next s := exec_commit_clean dirty
    exact ⟨s, unchanged, nofun, fun _ => rfl, rfl, fun _ => rfl, sameHost_refl s, rfl, rfl, unchanged⟩
  | true =>
    have again : exec .commit s.copyGrid = .next s.copyGrid := exec_commit_clean s.copyGrid_dirty
    exact ⟨s.copyGrid, exec_commit_pending dirty, fun _ => ⟨s.copyGrid_pres, s.copyGrid_dirty⟩, nofun, s.copyGrid_live,
      s.copyGrid_reg, sameHost_copyGrid s, s.copyGrid_snaps, s.copyGrid_diag, again⟩

/-- Settles O37: SNAP adds PRES to the reader's results and writes nothing else. -/
theorem snapReturnsThePresentationGrid : Obligations.SnapReturnsThePresentationGrid := by
  unfold Obligations.SnapReturnsThePresentationGrid
  exact fun s => ⟨s.returnSnap, exec_snap s, s.returnSnap_snaps, sameBlock_returnSnap s, s.returnSnap_reg,
    sameHost_returnSnap s, s.returnSnap_diag⟩

/-! #### The layout of a SNAP result -/

/-- In a concatenation of blocks of one width, position `width * y + x` is position `x` of block `y`. -/
theorem getElem?_flatMap_of_width {α β : Type} {f : α → List β} {width : Nat} (uniform : ∀ a, (f a).length = width)
    (l : List α) {x : Nat} (inside : x < width) (y : Nat) :
    (l.flatMap f)[width * y + x]? = l[y]?.bind fun a => (f a)[x]? := by
  induction l generalizing y with
  | nil => rfl
  | cons a l ih =>
    rw [List.flatMap_cons]
    cases y with
    | zero =>
      rw [Nat.mul_zero, Nat.zero_add, List.getElem?_append_left (by rwa [uniform])]
      rfl
    | succ y =>
      have skip : width * (y + 1) + x - (f a).length = width * y + x := by
        rw [uniform, Nat.mul_succ]
        omega
      rw [List.getElem?_append_right (by rw [uniform, Nat.mul_succ]; omega), skip, ih, List.getElem?_cons_succ]

/-- The bits of one row of a grid, x = 0 first. -/
def rowBits (r : GridRow) : List Bool := (List.range gridWidth).map r.getLsbD

theorem snapVector_eq_flatMap (g : Grid) : snapVector g = g.toList.flatMap rowBits := rfl

@[simp] theorem length_rowBits (r : GridRow) : (rowBits r).length = 64 := by simp [rowBits]

theorem getElem?_rowBits (r : GridRow) {x : Nat} (inside : x < 64) : (rowBits r)[x]? = some (r.getLsbD x) := by
  simp [rowBits, inside]

theorem length_snapVector (g : Grid) : (snapVector g).length = 2048 := by
  simp [snapVector_eq_flatMap, List.length_flatMap]

/-- Settles O38: the vector is the 32 rows' 64 bits one after another, so bit `64 * y + x` is bit x of row y. -/
theorem snapResultIsRowMajor : Obligations.SnapResultIsRowMajor := by
  unfold Obligations.SnapResultIsRowMajor
  refine fun g => ⟨length_snapVector g, fun x y column line => ?_⟩
  have row : g.toList[y]? = some g[y] := by simp [line]
  rw [snapVector_eq_flatMap, getElem?_flatMap_of_width length_rowBits _ column, row, Option.bind_some,
    getElem?_rowBits _ column, pixel, gridRow_eq g line]

/-! #### The invariant -/

/-- The part of the invariant that is about the host: memory and the two sets in canonical form, and only a loaded host
suspended. -/
structure State.HostInv (s : State) : Prop where
  memory : s.mem.wf
  breakpoints : s.breakpoints.Pairwise (· < ·)
  keys : s.keys.Pairwise (· < ·)
  suspension : s.suspended.isSome = true → s.loaded = true

/-- The invariant is the host's part and the block's, DIRTY = 0 implies PRES = LIVE. -/
theorem State.inv_iff (s : State) : s.Inv ↔ s.HostInv ∧ s.Coherent := by
  constructor
  · rintro ⟨memory, coherent, breakpoints, keys, suspension⟩
    exact ⟨⟨memory, breakpoints, keys, suspension⟩, coherent⟩
  · rintro ⟨⟨memory, breakpoints, keys, suspension⟩, coherent⟩
    exact ⟨memory, coherent, breakpoints, keys, suspension⟩

/-- Settles O5: nothing is listed in memory or in the sets, both grids are the zero grid, and the host is not suspended. -/
theorem resetMeetsTheInvariant : Obligations.ResetMeetsTheInvariant := by
  unfold Obligations.ResetMeetsTheInvariant
  exact State.reset.inv_iff.2 ⟨⟨Memory.wf_nil, .nil, .nil, nofun⟩, fun _ => rfl⟩

/-- A step leaves the grids equal unless a redraw is pending: by what a step may do to the block (70_reset_and_hazards.md
R79). -/
theorem step_coherent {s t : State} (coherent : s.Coherent) (e : step s = .next t) : t.Coherent := by
  intro clean
  cases step_blockEffect e with
  | same h =>
    obtain ⟨live, pres, dirty⟩ := h
    rw [live, pres, coherent (dirty.symm.trans clean)]
  | clear live pres _ _ => exact pres.trans live.symm
  | draw _ _ _ _ _ _ _ _ next => simp [next] at clean
  | commit _ _ pres live _ => exact pres.trans live.symm

namespace State.HostInv

variable {s t : State}

/-- The block's operations write none of it (10_state.md R19). -/
theorem execNext (h : s.HostInv) (i : Instr) : (execNext i s).HostInv := by
  cases i with
  | cls | drw | snap => exact { h with }
  | commit =>
    cases dirty : s.dirty
    · rwa [execNext_commit_clean dirty]
    · rw [execNext_commit_pending dirty]
      exact { h with }

/-- The breakpoint check comes after the test of the loaded flag (00_scope.md R4). -/
theorem suspendAt (h : s.HostInv) (loaded : s.loaded = true) (line : Nat) : (s.suspendAt line).HostInv :=
  { h with suspension := fun _ => loaded }

theorem resume (h : s.HostInv) : s.resume.HostInv := { h with suspension := nofun }

theorem advance (h : s.HostInv) : s.advance.HostInv := by
  obtain ⟨pc, draws, advanced⟩ := advance_cases s
  rw [advanced]
  exact { h with }

/-- A host instruction stores any bytes, and a store keeps the canonical form. -/
theorem applyHost (h : s.HostInv) (c : HostChange) : (s.applyHost c).HostInv :=
  { h with memory := Memory.wf_storeAll h.memory c.writes }

theorem loadProgram (h : s.HostInv) (program : List Byte) : (s.loadProgram program).HostInv :=
  { h with memory := Memory.wf_storeBytes Memory.wf_nil _ program, suspension := nofun }

theorem applyEdit (h : s.HostInv) (e : Edit) : (s.applyEdit e).HostInv := by
  cases e with
  | cell addr b => exact { h with memory := Memory.wf_store h.memory addr b }
  | reg | index | pc | sp | stack | delay | sound => exact { h with }

theorem setKey (h : s.HostInv) (key : Nat) (pressed : Bool) : (s.setKey key pressed).HostInv := by
  cases pressed with
  | false => exact { h with keys := sorted_removeFrom h.keys key }
  | true => exact { h with keys := sorted_insertSorted h.keys key }

theorem of_dispatchWord (h : s.HostInv) {w : Word} (e : dispatchWord w s = .next t) : t.HostInv := by
  rcases dispatchWord_next e with ⟨-, rfl⟩ | ⟨x, y, n, -, -, rfl⟩ | ⟨c, -, rfl⟩ | rfl
  · exact h.execNext .cls
  · exact h.execNext (.drw x y n)
  · exact h.applyHost c
  · exact h

theorem of_interpreterStep (h : s.HostInv) (e : interpreterStep s = .next t) : t.HostInv := by
  rcases interpreterStep_cases s with ⟨-, idle⟩ | ⟨loaded, line, -, suspends⟩ | ⟨-, fetches⟩
  · cases idle.symm.trans e
    exact h
  · cases suspends.symm.trans e
    exact h.suspendAt loaded line
  · exact h.resume.advance.of_dispatchWord (fetches.symm.trans e)

theorem of_hostIssue (h : s.HostInv) {w : Word} (e : hostIssue w s = .next t) : t.HostInv := by
  rcases hostIssue_cases w s with ⟨-, -, clears⟩ | ⟨x, y, n, -, -, -, draws⟩ | ignored
  · cases clears.symm.trans e
    exact h.execNext .cls
  · cases draws.symm.trans e
    exact h.execNext (.drw x y n)
  · cases ignored.symm.trans e
    exact h

theorem of_ownerLoad (h : s.HostInv) {program : List Byte} (e : ownerLoad program s = .next t) : t.HostInv := by
  cases terminal : s.terminal
  · cases (ownerLoad_running terminal program).symm.trans e
    exact h.loadProgram program
  · cases (ownerLoad_shutDown terminal program).symm.trans e

theorem of_inspectorEdit (h : s.HostInv) {ed : Edit} (e : inspectorEdit ed s = .next t) : t.HostInv := by
  cases suspended : s.suspended.isSome
  · cases (inspectorEdit_running suspended ed).symm.trans e
  · cases (inspectorEdit_suspended suspended ed).symm.trans e
    exact h.applyEdit ed

/-- Every request of every agent keeps it. -/
theorem of_serve (h : s.HostInv) {r : Request} (e : serve r s = .next t) : t.HostInv := by
  cases r with
  | step => exact h.of_interpreterStep e
  | issue w => exact h.of_hostIssue e
  | present c =>
    cases (serve_present c s).symm.trans e
    exact h.execNext (decodeP c)
  | load program => exact h.of_ownerLoad e
  | edit ed => exact h.of_inspectorEdit e
  | setKey key pressed =>
    cases e
    exact h.setKey key pressed
  | setBreakpoint line =>
    cases e
    exact { h with breakpoints := sorted_insertSorted h.breakpoints line }
  | clearBreakpoint line =>
    cases e
    exact { h with breakpoints := sorted_removeFrom h.breakpoints line }
  | shutdown | clock =>
    cases e
    exact { h with }

theorem popRequest (h : s.HostInv) : s.popRequest.HostInv := { h with }

end State.HostInv

/-- Settles O6: the host's part by the request that is served, the block's by what a step may do to the block. -/
theorem everyStepKeepsTheInvariant : Obligations.EveryStepKeepsTheInvariant := by
  unfold Obligations.EveryStepKeepsTheInvariant
  intro s t inv e
  obtain ⟨host, coherent⟩ := s.inv_iff.1 inv
  exact t.inv_iff.2 ⟨host.popRequest.of_serve e, step_coherent coherent e⟩

end Sys2Proof.Machine

/-! ### What does not reach the block, and where the host stops: the obligations of 60_exceptions.md -/

namespace Sys2Proof.Machine

/-! #### The block's operations complete, with their diagnostics -/

/-- Settles O18: each operation of the block has a next state. -/
theorem everyOperationCompletes : Obligations.EveryOperationCompletes := by
  unfold Obligations.EveryOperationCompletes
  exact fun i s => ⟨execNext i s, exec_eq i s⟩

/-- A sprite's diagnostics are those of its rows outside memory, in row order (60_exceptions.md R62, R65). -/
theorem State.rowDiags_eq_map_filter (s : State) {n : Nat} (height : n ≤ 15) :
    s.rowDiags n = ((List.range n).filter fun row => decide (4095 < s.index.toNat + row)).map
      fun row => Diag.oobRead (BitVec.ofNat 17 (s.index.toNat + row)) := by
  induction n with
  | zero => rfl
  | succ n ih =>
    have address : (spriteAddr s.index n).toNat = s.index.toNat + n := toNat_spriteAddr s.index (by omega)
    have lastRow : s.rowDiags (n + 1) = s.rowDiags n ++ readDiag (spriteAddr s.index n) := by
      simp [State.rowDiags, List.range_succ]
    rw [lastRow, ih (by omega), List.range_succ, List.filter_append, List.map_append]
    by_cases outside : 4095 < s.index.toNat + n
    · rw [readDiag_outside (address ▸ outside), spriteAddr_eq_ofNat]
      simp [outside]
    · rw [readDiag_inside (address ▸ Nat.not_lt.1 outside)]
      simp [outside]

/-- Settles O26: a DRW emits the diagnostics of its rows. -/
theorem drwReportsRowsOutsideMemory : Obligations.DrwReportsRowsOutsideMemory := by
  unfold Obligations.DrwReportsRowsOutsideMemory
  intro x y n s wf
  refine ⟨_, exec_eq _ s, ?_⟩
  rw [execNext_drw_diag, s.rowDiags_eq_map_filter (wellFormed_drw_iff.1 wf)]

/-! #### A host that stands -/

theorem lineOf_of_le {pc : Word} (h : 512 ≤ pc.toNat) : lineOf pc = some ((pc.toNat - 512) / 2) := if_pos h

theorem State.atBreakpoint_of_mem {s : State} {line : Nat} (current : lineOf s.pc = some line)
    (member : line ∈ s.breakpoints) : s.atBreakpoint = some line := by
  simp [State.atBreakpoint, current, member]

theorem interpreterStep_atBreakpoint {s : State} {line : Nat} (loaded : s.loaded = true) (running : s.terminal = false)
    (found : s.atBreakpoint = some line) : interpreterStep s = .next (s.suspendAt line) := by
  simp [interpreterStep, loaded, running, found]

/-- Settles O16: the step is the host's `step()`, which finds the breakpoint. -/
theorem breakpointSuspendsTheHost : Obligations.BreakpointSuspendsTheHost := by
  unfold Obligations.BreakpointSuspendsTheHost
  intro s turn loaded running above member
  have found : s.popRequest.atBreakpoint = some ((s.pc.toNat - 512) / 2) :=
    State.atBreakpoint_of_mem (lineOf_of_le above) member
  rw [turn.step_eq, interpreterStep_atBreakpoint (s := s.popRequest) loaded running found]
  rfl

/-- A host that stands hands no word to port E (60_exceptions.md R68, R69; 70_reset_and_hazards.md R72). -/
theorem State.Stands.drivesPortE_eq_false {s : State} (stands : s.Stands) : s.drivesPortE = false := by
  rcases stands with h | h | ⟨h, -⟩
  · simp [State.drivesPortE, h]
  · simp [State.drivesPortE, h]
  · simp [State.drivesPortE, Option.isNone_eq_false_iff.2 h]

/-- A host that stands does not get past the breakpoint check of its `step()`. -/
theorem State.Stands.not_ready {s : State} (stands : s.Stands) (isStep : s.nextRequest = .step) : ¬s.Ready := by
  rintro ⟨loaded, running, noBreak⟩
  rcases stands with h | h | ⟨-, h⟩
  · simp [loaded] at h
  · simp [running] at h
  · simp [noBreak] at h
    exact h isStep

/-- A clear is a CLS that the host brings or a load, and a DRW the host brings too: a host that stands brings neither. -/
theorem State.Stands.step_block {s t : State} (stands : s.Stands) (e : step s = .next t)
    (noLoad : ∀ program, s.nextRequest ≠ .load program) :
    t.live = s.live ∧ (s.nextRequest ≠ .present 1#1 → t.pres = s.pres ∧ t.dirty = s.dirty) := by
  cases step_blockEffect e with
  | same h =>
    obtain ⟨live, pres, dirty⟩ := h
    exact ⟨live, fun _ => ⟨pres, dirty⟩⟩
  | clear _ _ _ who =>
    rcases who with brings | ⟨program, load⟩
    · exact absurd brings (stands.brings_nothing _)
    · exact absurd load (noLoad program)
  | draw _ _ _ _ _ who => exact absurd who (stands.brings_nothing _)
  | commit who _ _ live _ => exact ⟨live, fun noCommit => absurd who noCommit⟩

/-- The reader's operations write no register (92_eei_decisions.md D13). -/
theorem execNext_decodeP_v (c : BitVec 1) (s : State) : (execNext (decodeP c) s).v = s.v := by
  have unseen := congrArg State.v (execSide_execNext_decodeP c s)
  simpa using unseen

/-- Only a load, an edit, a `step()` past its breakpoint check and a word for port E reach the registers. -/
theorem serve_v {r : Request} {s t : State} (e : serve r s = .next t) (noStep : r = .step → ¬s.Ready)
    (noWord : s.drivesPortE = false) (noLoad : ∀ program, r ≠ .load program) (noEdit : ∀ ed, r ≠ .edit ed) :
    t.v = s.v := by
  cases r with
  | step =>
    rcases interpreterStep_cases s with ⟨-, idle⟩ | ⟨-, line, -, suspends⟩ | ⟨ready, -⟩
    · cases idle.symm.trans e
      rfl
    · cases suspends.symm.trans e
      rfl
    · exact absurd ready (noStep rfl)
  | issue w =>
    cases (hostIssue_standing w noWord).symm.trans e
    rfl
  | present c =>
    cases (serve_present c s).symm.trans e
    exact execNext_decodeP_v c s
  | load program => exact absurd rfl (noLoad program)
  | edit ed => exact absurd rfl (noEdit ed)
  | shutdown | setBreakpoint | clearBreakpoint | setKey | clock =>
    cases e
    rfl

theorem State.reg_congr {s t : State} (same : t.v = s.v) (r : RegNum) : t.reg r = s.reg r := by
  rw [State.reg, State.reg, same]

/-- Settles O46: a word handed over is dropped, a command is served as ever, and of what a step may do to the block and to
the registers only the rest remains. -/
theorem standingHostLeavesTheBlockAlone : Obligations.StandingHostLeavesTheBlockAlone := by
  unfold Obligations.StandingHostLeavesTheBlockAlone
  intro s stands
  have silent : s.drivesPortE = false := stands.drivesPortE_eq_false
  refine ⟨fun w rs agenda => ?_, fun c rs agenda => ?_, fun t e noLoad => ?_⟩
  · rw [step_of_agenda agenda, serve, hostIssue_standing w (s := { s with agenda := rs }) silent]
  · rw [step_of_agenda agenda, serve, portP]
  · obtain ⟨live, reader⟩ := stands.step_block e noLoad
    exact ⟨live, reader, fun noEdit =>
      State.reg_congr (serve_v (s := s.popRequest) e stands.not_ready silent noLoad noEdit)⟩

/-! #### The inspector's edits -/

theorem serve_edit {s : State} (suspended : s.suspended.isSome = true) (e : Edit) :
    serve (.edit e) s = .next (s.applyEdit e) := inspectorEdit_suspended suspended e

/-- The inspector has no access to the block (60_exceptions.md R68). -/
theorem State.applyEdit_frame (s : State) (e : Edit) :
    SameBlock s (s.applyEdit e) ∧ (s.applyEdit e).snaps = s.snaps ∧ (s.applyEdit e).suspended = s.suspended := by
  cases e <;> exact ⟨⟨rfl, rfl, rfl⟩, rfl, rfl⟩

theorem sameHost_setReg (s : State) (r : RegNum) (b : Byte) : SameHost s (s.setReg r b) := by simp [SameHost]

theorem State.applyEdit_stack_same (s : State) (level : Fin 16) (w : Word) :
    (s.applyEdit (.stack level w)).stack[level] = w := by
  simp [State.applyEdit]

theorem State.applyEdit_stack_other (s : State) {level l : Fin 16} (other : l ≠ level) (w : Word) :
    (s.applyEdit (.stack level w)).stack[l] = s.stack[l] := by
  have apart : level.val ≠ l.val := fun same => other (Fin.ext same.symm)
  simp [State.applyEdit, apart]

theorem State.applyEdit_cell_same (s : State) {addr : Nat} (inside : addr < 4096) (b : Byte) :
    (s.applyEdit (.cell addr b)).cell addr = b := by
  refine State.cell_of_lookup ?_
  rw [State.applyEdit, Memory.lookup_store s.mem inside, if_pos rfl]

theorem State.applyEdit_cell_other (s : State) {addr a : Nat} (other : a ≠ addr) (b : Byte) :
    (s.applyEdit (.cell addr b)).cell a = s.cell a := by
  rw [State.cell, State.applyEdit, Memory.lookup_store_ne s.mem other]
  rfl

theorem State.applyEdit_cell_outside (s : State) {addr : Nat} (outside : 4096 ≤ addr) (b : Byte) :
    s.applyEdit (.cell addr b) = s := by
  rw [State.applyEdit, Memory.store_outside s.mem outside]

/-- Settles O43: a suspended host's edit is served, field by field. -/
theorem editsReachTheHostButNeverTheBlock : Obligations.EditsReachTheHostButNeverTheBlock := by
  unfold Obligations.EditsReachTheHostButNeverTheBlock
  intro s suspended
  have served := serve_edit suspended
  refine ⟨fun e => ⟨_, served e, s.applyEdit_frame e⟩, fun r b => ?reg, fun w => ?index, fun w => ?pc, fun n => ?sp,
    fun level w => ?stack, fun b => ?delay, fun b => ?sound, fun addr b inside => ?cell, fun addr b outside => ?outside⟩
  case reg =>
    exact ⟨_, served _, s.setReg_reg_same r b, fun q other => s.setReg_reg_other other b, sameHost_setReg s r b, rfl⟩
  case stack =>
    exact ⟨_, served _, s.applyEdit_stack_same level w, fun l other => s.applyEdit_stack_other other w, fun _ => rfl,
      fun _ => rfl, rfl⟩
  case cell =>
    exact ⟨_, served _, s.applyEdit_cell_same inside b, fun a other => s.applyEdit_cell_other other b, fun _ => rfl, rfl⟩
  case outside => rw [served, s.applyEdit_cell_outside outside]
  case index | pc | sp | delay | sound => exact ⟨_, served _, rfl, fun _ => rfl, fun _ => rfl, rfl⟩

/-! #### The call stack and its levels -/

theorem State.runHost_of_some {s : State} {c : HostChange} {f : Fault} (beyond : stackFault s.sp c.stackUse = some f) :
    s.runHost c = .fault f := by
  rw [State.runHost, beyond]

theorem stackFault_keep (sp : Nat) : stackFault sp .keep = none := rfl

theorem stackFault_push_of_lt {sp : Nat} (h : sp < 16) : stackFault sp .push = none := if_neg (Nat.not_le.2 h)

theorem stackFault_push_of_le {sp : Nat} (h : 16 ≤ sp) : stackFault sp .push = some .callStackOverflow := if_pos h

theorem stackFault_pop_zero : stackFault 0 .pop = some .callStackUnderflow := rfl

theorem stackFault_pop_of_le {sp : Nat} (taken : 0 < sp) (h : sp ≤ 16) : stackFault sp .pop = none :=
  (if_neg taken.ne').trans (if_neg (Nat.not_lt.2 h))

theorem stackFault_pop_of_lt {sp : Nat} (h : 16 < sp) : stackFault sp .pop = some .callStackOverflow :=
  (if_neg (Nat.ne_zero_of_lt h)).trans (if_pos h)

/-- A host instruction within the call stack's levels completes, leaves the block alone and counts its use of a level. -/
theorem State.runHost_completes {s : State} {c : HostChange} (within : stackFault s.sp c.stackUse = none) :
    ∃ t, s.runHost c = .next t ∧ SameBlock s t ∧ t.sp = stackDepth s.sp c.stackUse :=
  ⟨s.applyHost c, by rw [State.runHost, within], ⟨rfl, rfl, rfl⟩, rfl⟩

/-- Settles O47: by what the use of the stack is and where the stack pointer stands. -/
theorem callStackFaultsBeyondItsLevels : Obligations.CallStackFaultsBeyondItsLevels := by
  unfold Obligations.CallStackFaultsBeyondItsLevels
  intro c s
  refine ⟨fun keep => ?_, fun push room => ?_, fun push full => ?_, fun pop empty => ?_, fun pop taken within => ?_,
    fun pop beyond => ?_⟩
  · obtain ⟨t, next, block, sp⟩ := State.runHost_completes (s := s) (keep ▸ stackFault_keep s.sp)
    exact ⟨t, next, block, by rw [sp, keep, stackDepth]⟩
  · obtain ⟨t, next, block, sp⟩ := State.runHost_completes (push ▸ stackFault_push_of_lt room)
    exact ⟨t, next, block, by rw [sp, push, stackDepth]⟩
  · exact State.runHost_of_some (push ▸ stackFault_push_of_le full)
  · exact State.runHost_of_some (by rw [pop, empty, stackFault_pop_zero])
  · obtain ⟨t, next, block, sp⟩ := State.runHost_completes (pop ▸ stackFault_pop_of_le taken within)
    exact ⟨t, next, block, by rw [sp, pop, stackDepth, Nat.sub_add_cancel taken]⟩
  · exact State.runHost_of_some (pop ▸ stackFault_pop_of_lt beyond)

@[simp] theorem execNext_sp (i : Instr) (s : State) : (execNext i s).sp = s.sp := by
  cases i with
  | cls | drw | snap => rfl
  | commit =>
    cases dirty : s.dirty
    · rw [execNext_commit_clean dirty]
    · rw [execNext_commit_pending dirty, State.copyGrid_sp]

@[simp] theorem State.advance_sp (s : State) : s.advance.sp = s.sp := by
  obtain ⟨pc, draws, advanced⟩ := advance_cases s
  rw [advanced]

theorem dispatchWord_sp_le {w : Word} {s t : State} (within : s.sp ≤ 16) (e : dispatchWord w s = .next t) :
    t.sp ≤ 16 := by
  rcases dispatchWord_next e with ⟨-, rfl⟩ | ⟨x, y, n, -, -, rfl⟩ | ⟨c, noFault, rfl⟩ | rfl
  · exact within
  · rwa [execNext_sp]
  · exact stackDepth_le noFault within
  · exact within

theorem interpreterStep_sp_le {s t : State} (within : s.sp ≤ 16) (e : interpreterStep s = .next t) : t.sp ≤ 16 := by
  rcases interpreterStep_cases s with ⟨-, idle⟩ | ⟨-, line, -, suspends⟩ | ⟨-, fetches⟩
  · cases idle.symm.trans e
    exact within
  · cases suspends.symm.trans e
    exact within
  · have past : s.resume.advance.sp ≤ 16 := by rwa [State.advance_sp, State.resume_sp]
    exact dispatchWord_sp_le past (fetches.symm.trans e)

theorem hostIssue_sp {w : Word} {s t : State} (e : hostIssue w s = .next t) : t.sp = s.sp := by
  rcases hostIssue_cases w s with ⟨-, -, clears⟩ | ⟨x, y, n, -, -, -, draws⟩ | ignored
  · cases clears.symm.trans e
    rfl
  · cases draws.symm.trans e
    exact execNext_sp _ s
  · cases ignored.symm.trans e
    rfl

theorem State.applyEdit_sp (s : State) {ed : Edit} (other : ∀ n, ed ≠ .sp n) : (s.applyEdit ed).sp = s.sp := by
  cases ed with
  | sp n => exact absurd rfl (other n)
  | reg | index | pc | stack | delay | sound | cell => rfl

/-- Beside the inspector's edit, only a `step()` moves the stack pointer, within the levels, and a load, to 0 (log 30). -/
theorem serve_sp_le {r : Request} {s t : State} (within : s.sp ≤ 16) (e : serve r s = .next t)
    (noEdit : ∀ n, r ≠ .edit (.sp n)) : t.sp ≤ 16 := by
  cases r with
  | step => exact interpreterStep_sp_le within e
  | issue w => exact (hostIssue_sp e).trans_le within
  | present c =>
    cases (serve_present c s).symm.trans e
    rwa [execNext_sp]
  | load program =>
    cases terminal : s.terminal
    · cases (ownerLoad_running terminal program).symm.trans e
      exact Nat.zero_le 16
    · cases (ownerLoad_shutDown terminal program).symm.trans e
  | edit ed =>
    cases suspended : s.suspended.isSome
    · cases (inspectorEdit_running suspended ed).symm.trans e
    · cases (inspectorEdit_suspended suspended ed).symm.trans e
      rwa [s.applyEdit_sp fun n isSp => noEdit n (congrArg Request.edit isSp)]
  | shutdown | setBreakpoint | clearBreakpoint | setKey | clock =>
    cases e
    exact within

/-- Settles O48: by the request that the step serves. -/
theorem callStackStaysWithinItsLevels : Obligations.CallStackStaysWithinItsLevels := by
  unfold Obligations.CallStackStaysWithinItsLevels
  intro s t within e noEdit
  exact serve_sp_le (s := s.popRequest) within e noEdit

end Sys2Proof.Machine

/-! ### Program load, and what stops a step: the obligations of 70_reset_and_hazards.md -/

namespace Sys2Proof.Machine

/-! #### The program load -/

@[simp] theorem State.loadProgram_pc (s : State) (program : List Byte) : (s.loadProgram program).pc = 512#16 := rfl

@[simp] theorem State.loadProgram_breakpoints (s : State) (program : List Byte) :
    (s.loadProgram program).breakpoints = s.breakpoints := rfl

/-- A load clears every register (70_reset_and_hazards.md R72). -/
@[simp] theorem State.loadProgram_reg (s : State) (program : List Byte) (r : RegNum) :
    (s.loadProgram program).reg r = 0 := by
  simp [State.loadProgram, State.reg]

/-- Settles O2: before shutdown the load is served, and each field it resets or keeps is read off. -/
theorem programLoadResetsTheMachine : Obligations.ProgramLoadResetsTheMachine := by
  unfold Obligations.ProgramLoadResetsTheMachine
  intro program s running
  exact ⟨s.loadProgram program, ownerLoad_running running program, ⟨rfl, rfl, rfl⟩, blank_zeroGrid, blank_zeroGrid, rfl,
    s.loadProgram_reg program, rfl, rfl, rfl, rfl, rfl, rfl, rfl, running, rfl, rfl⟩

/-! #### The step after a load -/

theorem run_one (s : State) : run 1 s = step s := by
  cases h : step s <;> simp [run, h]

/-- A load leaves a host that is not shut down ready to fetch, unless line 0, where the program counter stands, is a
breakpoint (70_reset_and_hazards.md R72; log 18, 22). -/
theorem State.ready_loadProgram (s : State) (running : s.terminal = false) (noBreak : 0 ∉ s.breakpoints)
    (program : List Byte) : (s.loadProgram program).Ready := by
  have line : lineOf 512#16 = some 0 := rfl
  exact ⟨rfl, running, by simp [State.atBreakpoint, line, noBreak]⟩

/-- The bytes of a word at the head of a loaded program, read back in memory's order, decode as the word does. -/
theorem State.decodeBytes_loadProgram (s : State) {w : Word} {i : Instr} (rest : List Byte) (decodes : decodeE w = .ok i) :
    decodeBytes [(s.loadProgram (bytesOfWord w ++ rest)).cell 512, (s.loadProgram (bytesOfWord w ++ rest)).cell 513] =
      .ok (i, []) := by
  have high : (s.loadProgram (bytesOfWord w ++ rest)).cell 512 = highByte w :=
    loadedProgramLiesAt512 s _ 0 _ rfl (by decide)
  have low : (s.loadProgram (bytesOfWord w ++ rest)).cell 513 = lowByte w :=
    loadedProgramLiesAt512 s _ 1 _ rfl (by decide)
  rw [high, low, decodeBytes_pair_ok_iff, wordOfBytes_bytes, decodes]

/-- On the scheduler's turn a host just loaded runs the instruction its program begins with; the timers it decays before
the fetch are 0 already. -/
theorem step_loadProgram {s : State} {w : Word} {i : Instr} (rest : List Byte) (turn : s.SchedulersTurn)
    (running : s.terminal = false) (noBreak : 0 ∉ s.breakpoints) (decodes : decodeE w = .ok i) :
    step (s.loadProgram (bytesOfWord w ++ rest)) =
      exec i { s.loadProgram (bytesOfWord w ++ rest) with agenda := s.agenda.tail, pc := 514#16 } :=
  stepRunsTheFetchedInstruction (s.loadProgram (bytesOfWord w ++ rest)) i turn (s.ready_loadProgram running noBreak _)
    (by simp) (by simp) (s.decodeBytes_loadProgram rest decodes)

/-- Settles O4: the load is served, and the `step()` after it runs the instruction that the program's first word encodes. -/
theorem loadedProgramStartsWithItsFirstWord : Obligations.LoadedProgramStartsWithItsFirstWord := by
  unfold Obligations.LoadedProgramStartsWithItsFirstWord
  intro s i w rest running noBreak wellFormed encodes
  have decodes : decodeE w = .ok i := by
    have decodes := decodeOfEncodeIsTheInstruction i wellFormed
    rwa [encodes] at decodes
  have load : step { s with agenda := [.load (bytesOfWord w ++ rest), .step] } =
      .next (State.loadProgram { s with agenda := [.step] } (bytesOfWord w ++ rest)) :=
    ownerLoad_running (s := { s with agenda := [.step] }) running _
  rw [run_succ_next 1 load, run_one]
  exact step_loadProgram rest (.inr ⟨[], rfl⟩) running noBreak decodes

/-! #### What stops a step -/

/-- A ready host fetches one of its own instructions: a word that is not the block's and that it knows (log 1, 32). -/
structure State.FetchesHostInstruction (s : State) : Prop where
  ready : s.Ready
  notTheBlocks : decodeE s.fetchWord = .error (.notTheBlocks s.fetchWord)
  known : Config.hostKnows s.fetchWord = true

/-- What a served request may answer: a next state, or one of the four faults, each with the request and the state that
raise it (60_exceptions.md R61, R63; 92_eei_decisions.md D20, D21; 93_implementation_defined.md U8). -/
inductive Answer (r : Request) (s : State) : Host.Outcome State Fault Refusal → Prop
  | completes (t : State) : Answer r s (.next t)
  | editWhileRunning (e : Edit) (request : r = .edit e) (running : s.suspended = none) :
      Answer r s (.fault .editWhileRunning)
  | loadAfterShutdown (program : List Byte) (request : r = .load program) (shutDown : s.terminal = true) :
      Answer r s (.fault .loadAfterShutdown)
  | callStackOverflow (request : r = .step) (host : s.FetchesHostInstruction) (full : 16 ≤ s.sp) :
      Answer r s (.fault .callStackOverflow)
  | callStackUnderflow (request : r = .step) (host : s.FetchesHostInstruction) (empty : s.sp = 0) :
      Answer r s (.fault .callStackUnderflow)

/-- The host's `step()` stops only by its own instruction at an end of the call stack. -/
theorem interpreterStep_answer (s : State) : Answer .step s (interpreterStep s) := by
  rcases interpreterStep_cases s with ⟨-, h⟩ | ⟨-, line, -, h⟩ | ⟨ready, h⟩ <;> rw [h]
  · exact .completes _
  · exact .completes _
  · rw [s.fetchWord_resume]
    rcases dispatchWord_cases s.fetchWord s.resume.advance with
      ⟨-, h⟩ | ⟨x, y, n, -, -, h⟩ | ⟨rejects, known, h⟩ | ⟨-, -, h⟩ <;> rw [h]
    · exact .completes _
    · exact .completes _
    · have sp : s.resume.advance.sp = s.sp := by rw [State.advance_sp, State.resume_sp]
      rcases s.resume.advance.runHost_cases (Config.hostChange s.resume.advance.draws) with
        ⟨-, h⟩ | ⟨h, full⟩ | ⟨h, empty⟩ <;> rw [h]
      · exact .completes _
      · exact .callStackOverflow rfl ⟨ready, rejects, known⟩ (sp ▸ full)
      · exact .callStackUnderflow rfl ⟨ready, rejects, known⟩ (sp ▸ empty)
    · exact .completes _

theorem serve_answer (r : Request) (s : State) : Answer r s (serve r s) := by
  cases r with
  | step => exact interpreterStep_answer s
  | issue w =>
    rcases hostIssue_cases w s with ⟨-, -, h⟩ | ⟨x, y, n, -, -, -, h⟩ | h <;> rw [serve, h] <;> exact .completes _
  | present c =>
    rw [serve_present]
    exact .completes _
  | load program =>
    cases terminal : s.terminal
    · rw [serve, ownerLoad_running terminal]
      exact .completes _
    · rw [serve, ownerLoad_shutDown terminal]
      exact .loadAfterShutdown program rfl terminal
  | edit e =>
    cases suspended : s.suspended with
    | none =>
      rw [serve, inspectorEdit_running (congrArg Option.isSome suspended)]
      exact .editWhileRunning e rfl suspended
    | some line =>
      rw [serve, inspectorEdit_suspended (congrArg Option.isSome suspended)]
      exact .completes _
  | shutdown | setBreakpoint | clearBreakpoint | setKey | clock => exact .completes _

theorem step_answer (s : State) : Answer s.nextRequest s.popRequest (step s) := serve_answer _ _

/-- Any request but `step()` that comes next stands in the agenda: an empty one stands for `step()` (log 15). -/
theorem State.agenda_of_nextRequest {s : State} {r : Request} (next : s.nextRequest = r) (asked : r ≠ .step) :
    ∃ rs, s.agenda = r :: rs := by
  cases agenda : s.agenda with
  | nil => exact absurd (by rw [← next, State.nextRequest, agenda, List.headD_nil]) asked
  | cons q rs => exact ⟨rs, by rw [← next, State.nextRequest, agenda, List.headD_cons]⟩

theorem State.schedulersTurn_of_nextRequest {s : State} (next : s.nextRequest = .step) : s.SchedulersTurn := by
  cases agenda : s.agenda with
  | nil => exact .inl agenda
  | cons q rs =>
    have head : q = .step := by rw [← next, State.nextRequest, agenda, List.headD_cons]
    exact .inr ⟨rs, head ▸ agenda⟩

/-- Settles O19: each fault of a step is raised by one answer of the request it serves, and the environment's two moves
are answered so. -/
theorem stepStopsOnlyOnForbiddenMoves : Obligations.StepStopsOnlyOnForbiddenMoves := by
  unfold Obligations.StepStopsOnlyOnForbiddenMoves
  intro s
  have answer : Answer s.nextRequest s.popRequest (step s) := step_answer s
  refine ⟨fun r e => ?refused, ⟨fun e => ?edit, ?editStops⟩, ⟨fun e => ?load, ?loadStops⟩, fun e => ?overflow,
    fun e => ?underflow⟩
  case editStops =>
    rintro ⟨running, ed, rs, agenda⟩
    have awake : s.suspended.isSome = false := congrArg Option.isSome running
    rw [step_of_agenda agenda, serve, inspectorEdit_running (s := { s with agenda := rs }) awake]
  case loadStops =>
    rintro ⟨shutDown, program, rs, agenda⟩
    rw [step_of_agenda agenda, serve, ownerLoad_shutDown (s := { s with agenda := rs }) shutDown]
  all_goals rw [e] at answer
  case refused => cases answer
  case edit =>
    cases answer with
    | editWhileRunning ed request running =>
      exact ⟨running, ed, State.agenda_of_nextRequest request nofun⟩
  case load =>
    cases answer with
    | loadAfterShutdown program request shutDown =>
      exact ⟨shutDown, program, State.agenda_of_nextRequest request nofun⟩
  case overflow =>
    cases answer with
    | callStackOverflow request host full =>
      exact ⟨State.schedulersTurn_of_nextRequest request, host.ready, host.notTheBlocks, host.known, full⟩
  case underflow =>
    cases answer with
    | callStackUnderflow request host empty =>
      exact ⟨State.schedulersTurn_of_nextRequest request, host.ready, host.notTheBlocks, host.known, empty⟩

end Sys2Proof.Machine
